-- ==== Sys2Proof/Word.lean ====
section
/-! DEFINITION. The widths of the ADSP-21160 (00_scope.md R6, R8), as fixed-width bit vectors. -/

namespace Sys2Proof

/-- A 32-bit universal register, a DAG register or a data address (10_state.md R36, R50). -/
abbrev Word := BitVec 32

/-- A 40-bit data register (10_state.md R31). -/
abbrev DataWord := BitVec 40

/-- An 80-bit multiplier result register (10_state.md R35). -/
abbrev ResultWord := BitVec 80

/-- A program address (10_state.md R40). -/
abbrev ProgAddr := BitVec 24

/-- A 48-bit instruction word (30_encoding.md R140). -/
abbrev InstrWord := BitVec 48

/-- A 23-bit compute field (30_encoding.md R177). -/
abbrev ComputeWord := BitVec 23

/-- A value on its way between registers and memory, left-justified: the most significant bit of the value is
bit 63, and zeros fill the bits below it. So every width conversion of 10_state.md R34 and 20_memory.md R103,
R104 (keep the most significant bits, fill zeros below) is one truncation. -/
abbrev BusWord := BitVec 64

end Sys2Proof
end

