-- ==== Sys2Proof/Syntax.lean ====
section
/-! DEFINITION. The instructions: one constructor of `Instr` per row of the opcode table, with their operand types. -/

namespace Sys2Proof

/-- A register number 0 to 15 within its file. -/
abbrev RegNum := Fin 16

/-- The two processing elements (10_state.md R30). -/
inductive Element
  | x | y
  deriving DecidableEq, Repr

/-- The G bit: which address generator and which memory bus (30_encoding.md R143). -/
inductive Dag
  | dm | pm
  deriving DecidableEq, Repr

/-- The sixteen system registers, in the order of their codes 0x70 to 0x7F (10_state.md R50). -/
inductive SReg
  | ustat1 | ustat2 | mode1 | mmask | mode2 | flags | astatx | astaty
  | stkyx | stkyy | irptl | imask | imaskp | lirptl | ustat3 | ustat4
  deriving DecidableEq, Repr

/-- The universal registers by the name they have for PEx (30_encoding.md R160). Code 0x62 is no register. -/
inductive UReg
  | r (n : RegNum) | i (n : RegNum) | m (n : RegNum) | l (n : RegNum) | b (n : RegNum) | s (n : RegNum)
  | faddr | daddr | pc | pcstk | pcstkp | laddr | curlcntr | lcntr | emuclk | emuclk2
  | px | px1 | px2 | tperiod | tcount
  | sys (reg : SReg)
  deriving DecidableEq, Repr

/-- The condition codes of the COND and TERM fields (30_encoding.md R170). The names are those of the IF column;
`lce` is NOT LCE in an IF and LCE in a DO UNTIL, `always` is TRUE in an IF and FOREVER in a DO UNTIL (R174). -/
inductive Cond
  | eq | lt | le | ac | av | mv | ms | sv | sz
  | flag (n : Fin 4)
  | tf | bm | lce
  | ne | ge | gt | notAc | notAv | notMv | notMs | notSv | notSz
  | notFlag (n : Fin 4)
  | notTf | notBm | always
  deriving DecidableEq, Repr

/-- MRF or MRB (10_state.md R35). -/
inductive MrBank
  | f | b
  deriving DecidableEq, Repr

/-- The parts of an MR register (10_state.md R35). -/
inductive MrPart
  | mr0 | mr1 | mr2
  deriving DecidableEq, Repr

/-- The format half of a mod2: integer, fractional, or fractional and rounded (46_multiplier.md R451). There is no
rounded integer, so the reserved pair f = 0, r = 1 is no value. -/
inductive MulFormat
  | integer | fractional | rounded
  deriving DecidableEq, Repr

/-- The modifier mod2 (46_multiplier.md R451). -/
structure Mod2 where
  /-- x input signed. -/
  xSigned : Bool
  /-- y input signed. -/
  ySigned : Bool
  /-- format and rounding. -/
  format : MulFormat
  deriving DecidableEq, Repr

/-- The modifier mod1 of SAT (46_multiplier.md R451). -/
structure Mod1 where
  /-- f: fractional. -/
  fractional : Bool
  /-- x: signed. -/
  signed : Bool
  deriving DecidableEq, Repr

/-- Fixed-point ALU operations on two registers with a result (44_alu_fixed.md). -/
inductive FixOp2
  | add | sub | addCi | subCi | avg | and | or | xor | min | max | clip
  deriving DecidableEq, Repr

/-- Fixed-point ALU operations on one register (44_alu_fixed.md): `incCi` is Rx + CI, `decCi` is Rx + CI - 1. -/
inductive FixOp1
  | incCi | decCi | inc | dec | neg | abs | pass | not
  deriving DecidableEq, Repr

/-- Floating-point ALU operations on two registers with a result (45_alu_float.md). -/
inductive FltOp2
  | add | sub | absAdd | absSub | avg | scalb | fixBy | truncBy | floatBy | copysign | min | max | clip
  deriving DecidableEq, Repr

/-- Floating-point ALU operations on one register (45_alu_float.md). -/
inductive FltOp1
  | neg | abs | pass | rnd | mant | logb | fix | trunc | float | recips | rsqrts
  deriving DecidableEq, Repr

/-- Shifter operations whose y input is a shift count or bit position, with a result (47_shifter.md). -/
inductive ShiftOp
  | lshift | orLshift | ashift | orAshift | rot | bclr | bset | btgl
  deriving DecidableEq, Repr

/-- Shifter operations whose y input is a bit6, len6 pair (47_shifter.md). -/
inductive FieldOp
  | fdep | orFdep | fdepSe | orFdepSe | fext | fextSe
  deriving DecidableEq, Repr

/-- Shifter operations on one register (47_shifter.md). -/
inductive ShiftOp1
  | exp | expEx | leftz | lefto | fpack | funpack
  deriving DecidableEq, Repr

/-- The fixed-point ALU half of a multifunction operation, OPCODE[1:0] of 48_multifunction.md R535. -/
inductive MfFixOp
  | add | sub | avg
  deriving DecidableEq, Repr

/-- The floating-point ALU half of a multifunction operation (48_multifunction.md R541), but ABS. -/
inductive MfFltOp
  | add | sub | float | fix | max | min
  deriving DecidableEq, Repr

/-- The multiplier half of a fixed-point multifunction operation that writes a register (48_multifunction.md R535). -/
inductive MfMulOp
  | mul | mac | msu
  deriving DecidableEq, Repr

/-- The multiplier inputs of a multifunction operation, by offset: R0-R3 and R4-R7 (48_multifunction.md R531). -/
structure MfMulIn where
  xm : Fin 4
  ym : Fin 4
  deriving DecidableEq, Repr

/-- The ALU inputs of a multifunction operation, by offset: R8-R11 and R12-R15 (48_multifunction.md R531). -/
structure MfAluIn where
  xa : Fin 4
  ya : Fin 4
  deriving DecidableEq, Repr

/-- The operation a 23-bit compute field stands for (30_encoding.md R177), the operand of every type that has a
COMPUTE field. -/
inductive Compute
  | nop
  | fix2 (op : FixOp2) (rn rx ry : RegNum)
  | fix1 (op : FixOp1) (rn rx : RegNum)
  | compFix (unsigned : Bool) (rx ry : RegNum)
  | flt2 (op : FltOp2) (rn rx ry : RegNum)
  | flt1 (op : FltOp1) (rn rx : RegNum)
  | compFlt (rx ry : RegNum)
  | mulRn (m : Mod2) (rn rx ry : RegNum)
  | mulMr (dst : MrBank) (m : Mod2) (rx ry : RegNum)
  | macRn (sub : Bool) (src : MrBank) (m : Mod2) (rn rx ry : RegNum)
  | macMr (sub : Bool) (acc : MrBank) (m : Mod2) (rx ry : RegNum)
  | satRn (src : MrBank) (m : Mod1) (rn : RegNum)
  | satMr (acc : MrBank) (m : Mod1)
  | rndRn (src : MrBank) (signed : Bool) (rn : RegNum)
  | rndMr (acc : MrBank) (signed : Bool)
  | clrMr (acc : MrBank)
  | mulFlt (rn rx ry : RegNum)
  | putMr (bank : MrBank) (part : MrPart) (rk : RegNum)
  | getMr (bank : MrBank) (part : MrPart) (rk : RegNum)
  | shift (op : ShiftOp) (rn rx ry : RegNum)
  | btst (rx ry : RegNum)
  | field (op : FieldOp) (rn rx ry : RegNum)
  | shift1 (op : ShiftOp1) (rn rx : RegNum)
  | dualFix (ra rs rx ry : RegNum)
  | dualFlt (ra rs rx ry : RegNum)
  | mulAluFix (mop : MfMulOp) (aop : MfFixOp) (rm ra : RegNum) (mi : MfMulIn) (ai : MfAluIn)
  | macAluFix (sub : Bool) (aop : MfFixOp) (ra : RegNum) (mi : MfMulIn) (ai : MfAluIn)
  | mulAluFlt (aop : MfFltOp) (rm ra : RegNum) (mi : MfMulIn) (ai : MfAluIn)
  | mulAbsFlt (rm ra : RegNum) (mi : MfMulIn) (xa : Fin 4)
  | mulDualFix (rs rm ra : RegNum) (mi : MfMulIn) (ai : MfAluIn)
  | mulDualFlt (rs rm ra : RegNum) (mi : MfMulIn) (ai : MfAluIn)
  deriving DecidableEq, Repr

/-- A shifter-immediate operation of Type 6 (30_encoding.md R180): the y input is data8, or a bit6, len6 pair; the
one-input operations ignore the immediate. -/
inductive ShiftImm
  | shift (op : ShiftOp) (data : BitVec 8) (rn rx : RegNum)
  | btst (data : BitVec 8) (rx : RegNum)
  | field (op : FieldOp) (bit6 len6 : BitVec 6) (rn rx : RegNum)
  | shift1 (op : ShiftOp1) (rn rx : RegNum)
  deriving DecidableEq, Repr

/-- One half of a Type 1 instruction, or the data move of a Type 10: a data register moved to or from memory with
post-modify (30_encoding.md R145, R156). -/
structure DregMove where
  /-- D: true stores the register, false loads it. -/
  store : Bool
  /-- I field. -/
  i : Fin 8
  /-- M field. -/
  m : Fin 8
  /-- the data register. -/
  reg : RegNum
  deriving DecidableEq, Repr

/-- The modifiers (DB), (LA), (CI) of a jump: fields J, A, CI (30_encoding.md R154). -/
structure JumpMods where
  delayed : Bool
  loopAbort : Bool
  clearInterrupt : Bool
  deriving DecidableEq, Repr

/-- The instructions. The first 50 constructors are the 48-bit rows of the opcode table; the others are its compute
rows, each standing for the word that is this compute alone (COND = TRUE, Type 2). -/
inductive Instr
  -- Group I (40_compute_move.md)
  | dualMove (c : Compute) (dm pm : DregMove)
  | ifCompute (cond : Cond) (c : Compute)
  | uregMove (cond : Cond) (c : Compute) (g : Dag) (post : Bool) (i m : Fin 8) (store long : Bool) (u : UReg)
  | dregMoveImm (cond : Cond) (c : Compute) (g : Dag) (post : Bool) (i : Fin 8) (data : BitVec 6) (store : Bool)
      (reg : RegNum)
  | uregToUreg (cond : Cond) (c : Compute) (dst src : UReg)
  | swap (cond : Cond) (c : Compute) (xreg yreg : RegNum)
  | shiftImmMove (cond : Cond) (sh : ShiftImm) (g : Dag) (move : DregMove)
  | shiftImm (cond : Cond) (sh : ShiftImm)
  | modifyReg (cond : Cond) (c : Compute) (g : Dag) (i m : Fin 8)
  -- Group II (41_program_flow.md)
  | jumpAbs (cond : Cond) (mods : JumpMods) (addr : ProgAddr)
  | jumpRel (cond : Cond) (mods : JumpMods) (rel : BitVec 24)
  | callAbs (cond : Cond) (delayed : Bool) (addr : ProgAddr)
  | callRel (cond : Cond) (delayed : Bool) (rel : BitVec 24)
  | jumpInd (cond : Cond) (mods : JumpMods) (else_ : Bool) (i m : Fin 8) (c : Compute)
  | jumpRel6 (cond : Cond) (mods : JumpMods) (else_ : Bool) (rel : BitVec 6) (c : Compute)
  | callInd (cond : Cond) (delayed : Bool) (else_ : Bool) (i m : Fin 8) (c : Compute)
  | callRel6 (cond : Cond) (delayed : Bool) (else_ : Bool) (rel : BitVec 6) (c : Compute)
  | jumpIndElse (cond : Cond) (i m : Fin 8) (c : Compute) (move : DregMove)
  | jumpRelElse (cond : Cond) (rel : BitVec 6) (c : Compute) (move : DregMove)
  | rts (cond : Cond) (delayed else_ lr : Bool) (c : Compute)
  | rti (cond : Cond) (delayed else_ : Bool) (c : Compute)
  | doCountImm (count : BitVec 16) (rel : BitVec 24)
  | doCountReg (u : UReg) (rel : BitVec 24)
  | doUntil (term : Cond) (rel : BitVec 24)
  -- Group III (42_immediate_move.md)
  | storeDirect (g : Dag) (long : Bool) (u : UReg) (addr : Word)
  | loadDirect (g : Dag) (long : Bool) (u : UReg) (addr : Word)
  | storeIndexed (g : Dag) (i : Fin 8) (long : Bool) (u : UReg) (data : Word)
  | loadIndexed (g : Dag) (i : Fin 8) (long : Bool) (u : UReg) (data : Word)
  | storeImm (g : Dag) (i m : Fin 8) (data : Word)
  | loadImm (u : UReg) (data : Word)
  -- Group IV (43_misc.md)
  | bitSet (reg : SReg) (data : Word)
  | bitClr (reg : SReg) (data : Word)
  | bitTgl (reg : SReg) (data : Word)
  | bitTst (reg : SReg) (data : Word)
  | bitXor (reg : SReg) (data : Word)
  | modifyImm (g : Dag) (i : Fin 8) (data : Word)
  | bitrev (g : Dag) (i : Fin 8) (data : Word)
  | pushPcstk (flush : Bool)
  | pushLoop (sts pcstk flush : Bool)
  | pushSts (pcstk flush : Bool)
  | popLoop (sts pcstk flush : Bool)
  | flushCache
  | popSts (pcstk flush : Bool)
  | popPcstk (flush : Bool)
  | stackNone
  | nop
  | idle
  | cjumpAbs (addr : ProgAddr)
  | cjumpRel (rel : BitVec 24)
  | rframe
  -- compute alone: no operation, fixed-point ALU (44_alu_fixed.md)
  | noCompute
  | addFix (rn rx ry : RegNum)
  | subFix (rn rx ry : RegNum)
  | addCi (rn rx ry : RegNum)
  | subCi (rn rx ry : RegNum)
  | avgFix (rn rx ry : RegNum)
  | compFix (rx ry : RegNum)
  | compuFix (rx ry : RegNum)
  | incCi (rn rx : RegNum)
  | decCi (rn rx : RegNum)
  | incFix (rn rx : RegNum)
  | decFix (rn rx : RegNum)
  | negFix (rn rx : RegNum)
  | absFix (rn rx : RegNum)
  | passFix (rn rx : RegNum)
  | andFix (rn rx ry : RegNum)
  | orFix (rn rx ry : RegNum)
  | xorFix (rn rx ry : RegNum)
  | notFix (rn rx : RegNum)
  | minFix (rn rx ry : RegNum)
  | maxFix (rn rx ry : RegNum)
  | clipFix (rn rx ry : RegNum)
  -- floating-point ALU (45_alu_float.md)
  | addFlt (rn rx ry : RegNum)
  | subFlt (rn rx ry : RegNum)
  | absAddFlt (rn rx ry : RegNum)
  | absSubFlt (rn rx ry : RegNum)
  | avgFlt (rn rx ry : RegNum)
  | compFlt (rx ry : RegNum)
  | negFlt (rn rx : RegNum)
  | absFlt (rn rx : RegNum)
  | passFlt (rn rx : RegNum)
  | rndFlt (rn rx : RegNum)
  | scalb (rn rx ry : RegNum)
  | mant (rn rx : RegNum)
  | logb (rn rx : RegNum)
  | fix (rn rx : RegNum)
  | fixBy (rn rx ry : RegNum)
  | trunc (rn rx : RegNum)
  | truncBy (rn rx ry : RegNum)
  | floatBy (rn rx ry : RegNum)
  | float (rn rx : RegNum)
  | recips (rn rx : RegNum)
  | rsqrts (rn rx : RegNum)
  | copysign (rn rx ry : RegNum)
  | minFlt (rn rx ry : RegNum)
  | maxFlt (rn rx ry : RegNum)
  | clipFlt (rn rx ry : RegNum)
  -- multiplier (46_multiplier.md)
  | mulRn (m : Mod2) (rn rx ry : RegNum)
  | mulMrf (m : Mod2) (rx ry : RegNum)
  | mulMrb (m : Mod2) (rx ry : RegNum)
  | macRnMrf (m : Mod2) (rn rx ry : RegNum)
  | macRnMrb (m : Mod2) (rn rx ry : RegNum)
  | macMrf (m : Mod2) (rx ry : RegNum)
  | macMrb (m : Mod2) (rx ry : RegNum)
  | msuRnMrf (m : Mod2) (rn rx ry : RegNum)
  | msuRnMrb (m : Mod2) (rn rx ry : RegNum)
  | msuMrf (m : Mod2) (rx ry : RegNum)
  | msuMrb (m : Mod2) (rx ry : RegNum)
  | satRnMrf (m : Mod1) (rn : RegNum)
  | satRnMrb (m : Mod1) (rn : RegNum)
  | satMrf (m : Mod1)
  | satMrb (m : Mod1)
  | rndRnMrf (signed : Bool) (rn : RegNum)
  | rndRnMrb (signed : Bool) (rn : RegNum)
  | rndMrf (signed : Bool)
  | rndMrb (signed : Bool)
  | clrMrf
  | clrMrb
  | mulFlt (rn rx ry : RegNum)
  | putMr0f (rk : RegNum)
  | putMr1f (rk : RegNum)
  | putMr2f (rk : RegNum)
  | putMr0b (rk : RegNum)
  | putMr1b (rk : RegNum)
  | putMr2b (rk : RegNum)
  | getMr0f (rk : RegNum)
  | getMr1f (rk : RegNum)
  | getMr2f (rk : RegNum)
  | getMr0b (rk : RegNum)
  | getMr1b (rk : RegNum)
  | getMr2b (rk : RegNum)
  -- shifter (47_shifter.md)
  | lshift (rn rx ry : RegNum)
  | orLshift (rn rx ry : RegNum)
  | ashift (rn rx ry : RegNum)
  | orAshift (rn rx ry : RegNum)
  | rot (rn rx ry : RegNum)
  | bclr (rn rx ry : RegNum)
  | bset (rn rx ry : RegNum)
  | btgl (rn rx ry : RegNum)
  | btst (rx ry : RegNum)
  | fdep (rn rx ry : RegNum)
  | orFdep (rn rx ry : RegNum)
  | fdepSe (rn rx ry : RegNum)
  | orFdepSe (rn rx ry : RegNum)
  | fext (rn rx ry : RegNum)
  | fextSe (rn rx ry : RegNum)
  | exp (rn rx : RegNum)
  | expEx (rn rx : RegNum)
  | leftz (rn rx : RegNum)
  | lefto (rn rx : RegNum)
  | fpack (rn rx : RegNum)
  | funpack (rn rx : RegNum)
  -- multifunction (48_multifunction.md)
  | dualFix (ra rs rx ry : RegNum)
  | dualFlt (ra rs rx ry : RegNum)
  | mulRnAdd (rm ra : RegNum) (mi : MfMulIn) (ai : MfAluIn)
  | mulRnSub (rm ra : RegNum) (mi : MfMulIn) (ai : MfAluIn)
  | mulRnAvg (rm ra : RegNum) (mi : MfMulIn) (ai : MfAluIn)
  | macMrfAdd (ra : RegNum) (mi : MfMulIn) (ai : MfAluIn)
  | macMrfSub (ra : RegNum) (mi : MfMulIn) (ai : MfAluIn)
  | macMrfAvg (ra : RegNum) (mi : MfMulIn) (ai : MfAluIn)
  | macRnAdd (rm ra : RegNum) (mi : MfMulIn) (ai : MfAluIn)
  | macRnSub (rm ra : RegNum) (mi : MfMulIn) (ai : MfAluIn)
  | macRnAvg (rm ra : RegNum) (mi : MfMulIn) (ai : MfAluIn)
  | msuMrfAdd (ra : RegNum) (mi : MfMulIn) (ai : MfAluIn)
  | msuMrfSub (ra : RegNum) (mi : MfMulIn) (ai : MfAluIn)
  | msuMrfAvg (ra : RegNum) (mi : MfMulIn) (ai : MfAluIn)
  | msuRnAdd (rm ra : RegNum) (mi : MfMulIn) (ai : MfAluIn)
  | msuRnSub (rm ra : RegNum) (mi : MfMulIn) (ai : MfAluIn)
  | msuRnAvg (rm ra : RegNum) (mi : MfMulIn) (ai : MfAluIn)
  | fmulAdd (rm ra : RegNum) (mi : MfMulIn) (ai : MfAluIn)
  | fmulSub (rm ra : RegNum) (mi : MfMulIn) (ai : MfAluIn)
  | fmulFloat (rm ra : RegNum) (mi : MfMulIn) (ai : MfAluIn)
  | fmulFix (rm ra : RegNum) (mi : MfMulIn) (ai : MfAluIn)
  | fmulAbs (rm ra : RegNum) (mi : MfMulIn) (xa : Fin 4)
  | fmulMax (rm ra : RegNum) (mi : MfMulIn) (ai : MfAluIn)
  | fmulMin (rm ra : RegNum) (mi : MfMulIn) (ai : MfAluIn)
  | mulDualFix (rs rm ra : RegNum) (mi : MfMulIn) (ai : MfAluIn)
  | mulDualFlt (rs rm ra : RegNum) (mi : MfMulIn) (ai : MfAluIn)
  deriving DecidableEq, Repr

end Sys2Proof
end

