-- ==== Sys2Proof/Config.lean ====
section
/-! DEFINITION. What the sources leave to an implementation: the OPEN parameters of 92_eei_decisions.md as plain data,
and the free values of 93_implementation_defined.md as constants without a body. -/

namespace Sys2Proof

/-- What the memory map says of an address (20_memory.md R102, R108, decision D4). -/
inductive Region
  /-- no memory: an access is refused (R121). -/
  | absent
  /-- one storage cell of 32 bits. -/
  | word32
  /-- one storage cell of 40 bits. -/
  | word40
  /-- one storage cell of 48 bits, which can hold an instruction. -/
  | word48
  /-- one 64-bit location, reached by long word accesses (R108). -/
  | long
  /-- a register of the I/O processor or the platform (R122). -/
  | device
  deriving DecidableEq, Repr

/-- One stretch of the memory map: `size` addresses from `base` on. -/
structure MapEntry where
  base : Nat
  size : Nat
  kind : Region
  deriving DecidableEq, Repr

/-- What a long word access does (OPEN parameter LongWordModel, 20_memory.md R108, log entry 20). -/
inductive LongWordModel
  /-- no model: a long word access is refused (U12). -/
  | absent
  /-- two consecutive 32-bit cells, the lower even, and the register pair of the named register. -/
  | neighbourPair
  deriving DecidableEq, Repr

/-- How PX maps to a memory word (OPEN parameter PxMemModel, 20_memory.md R109, log entry 21). -/
inductive PxMemModel
  /-- no model: a transfer that names PX is refused (U13). -/
  | absent
  /-- the word is the most significant part of PX2 ++ PX1. -/
  | highAligned
  deriving DecidableEq, Repr

/-- How the timer counts (OPEN parameter TimerModel, 60_exceptions.md R575, log entry 25). -/
inductive TimerModel
  /-- the host: while TIMEN = 1 the count is any value and the timer interrupts may be latched at any step. -/
  | host
  /-- one count per step. -/
  | steps
  deriving DecidableEq, Repr

/-- The OPEN parameter IrqTable (60_exceptions.md R553, R558, R561, log entry 24). -/
structure IrqTable where
  /-- the vector of bit k is `base + 4 * k`. -/
  base : ProgAddr
  /-- bit k: interrupt k pushes the status stack. -/
  pushesStatus : Word
  /-- MMASK clears MODE1 bits on a push of the status stack. -/
  mmaskApplies : Bool
  /-- how many sampling points a qualifying interrupt may be let pass. -/
  maxLatency : Nat
  /-- bits of IRPTL that an agent outside the core may set between two steps. -/
  external : Word
  /-- arithmetic interrupts: bits of FIXI, FLTOI, FLTUI, FLTII follow the sticky bits (R566). -/
  arithmetic : Bool
  deriving DecidableEq, Repr

/-- The OPEN parameters a model takes as arguments (00_scope.md R7). No instruction writes them. -/
structure Params where
  map : List MapEntry
  pcDepth : Nat
  loopDepth : Nat
  stsDepth : Nat
  irq : IrqTable
  longWord : LongWordModel
  px : PxMemModel
  timer : TimerModel
  deriving DecidableEq, Repr

/-- Where a free value is drawn. Two draws of one step have two sites. -/
inductive FreeSite
  /-- the input pin of flag n (10_state.md R58). -/
  | flagPin (n : Fin 4)
  /-- the bus master condition (decision D41). -/
  | busMaster
  /-- a device register (20_memory.md R122). -/
  | device (addr : Word)
  /-- FADDR and DADDR off straight-line code (U9). -/
  | faddr
  | daddr
  /-- the emulator's counters (U10). -/
  | emuclk
  | emuclk2
  /-- AN after a floating-point ALU result that is not a number (U15). -/
  | aluAn (e : Element)
  /-- AZ of a COMP with an operand that is not a number (U15). -/
  | compAz (e : Element)
  /-- MN of a product that is not a number (U15). -/
  | mulMn (e : Element)
  /-- result and flags of FIX or TRUNC at exactly 2^31 (U16). -/
  | fixResult (e : Element)
  | fixFlags (e : Element)
  /-- SZ of an OR shift (U17). -/
  | orShiftSz (e : Element)
  /-- the low fraction bit of FPACK on a tie (U18). -/
  | fpackTie (e : Element)
  /-- I6 of RFRAME in SIMD mode (U24). -/
  | rframe
  /-- IMASK bits read while an interrupt is in service (U25). -/
  | imask
  /-- the entry made by PUSH PCSTK and the counter entry made by PUSH LOOP (decision D47). -/
  | pcEntry
  | countEntry
  /-- whether a qualifying interrupt is taken at this sampling point (60_exceptions.md R561). -/
  | takeNow
  /-- TCOUNT and the timer interrupts while the timer runs (60_exceptions.md R575). -/
  | timerCount
  | timerLatch
  /-- requests of outside agents (60_exceptions.md R554). -/
  | external
  deriving DecidableEq, Repr

namespace Config

/-- The free bit of a site at a clock value: no proof can see which it is (log entry 11). -/
opaque freeBit : FreeSite → Nat → Bool

/-- The free word of a site at a clock value (log entry 11). -/
opaque freeWord : FreeSite → Nat → BusWord

/-- The seed table of RECIPS, RecipsRom (45_alu_float.md R425, decision D19, log entry 38). -/
opaque recipsRom : BitVec 7 → BitVec 31

/-- The seed table of RSQRTS, RsqrtsRom (45_alu_float.md R426, decision D19, log entry 38). -/
opaque rsqrtsRom : BitVec 7 → BitVec 31

end Config

end Sys2Proof
end

