-- ==== Sys2Proof/WellFormed.lean ====
section
/-! DEFINITION. Which terms of `Instr` are the reading of some word. The operand types already shut out most of what
an encoding cannot say (a multifunction source outside its four registers, a rounded integer product, code 0x62, a
push beside a pop); one check is left. -/

namespace Sys2Proof

/-- A Type 2 word with COND = TRUE is the compute alone, which has its own constructor, so `ifCompute` names a
condition that can fail (30_encoding.md R146). -/
def condNamed : Instr → Bool
  | .ifCompute cond _ => decide (cond ≠ .always)
  | _ => true

/-- The instruction is one the decoder can answer. -/
def WellFormed (i : Instr) : Bool :=
  condNamed i

end Sys2Proof
end

