-- ==== Sys2Proof/Decode.lean ====
section
/-! DEFINITION. Decoding, total on every 48-bit word and rejecting by name, and the encoder, both written from the
encoding tables of 30_encoding.md. Bits a format leaves unspecified are ignored by the decoder (R142) and written 0 by
the encoder. -/

namespace Sys2Proof

/-- Why a word has no meaning (30_encoding.md R183; 93_implementation_defined.md U1, U7). -/
inductive DecodeError
  /-- bits 47 to 40 select no type (R144). -/
  | unallocatedType
  /-- a Type 25 word that misses its fixed bits (R175). -/
  | reservedType25
  /-- BOP 011, 110 or 111 (R166). -/
  | reservedBop
  /-- a compute pattern no table lists (R177, R385, R431, R485, R514, R545). -/
  | reservedCompute
  /-- a SHIFTOP that is no shifter opcode (R514). -/
  | reservedShiftOp
  /-- universal register code 0x62 (R160, U7). -/
  | reservedUreg
  /-- a Type 20 word with a push and a pop (R183, R338). -/
  | pushWithPop
  deriving DecidableEq, Repr

/-! ### Fields -/

/-- A word of `W` bits with `v` at bits `lo` and up, zeros elsewhere. -/
def place (W lo : Nat) {n : Nat} (v : BitVec n) : BitVec W :=
  v.setWidth W <<< lo

/-- The truth of a one-bit field. -/
def bitOf (v : BitVec 1) : Bool :=
  v == 1#1

/-- The one bit of a word as a truth value. -/
def flagAt {W : Nat} (w : BitVec W) (lo : Nat) : Bool :=
  bitOf (w.extractLsb' lo 1)

/-- A 4-bit register field. -/
def regAt {W : Nat} (w : BitVec W) (lo : Nat) : RegNum :=
  (w.extractLsb' lo 4).toFin

/-- A 3-bit I or M field. -/
def idxAt {W : Nat} (w : BitVec W) (lo : Nat) : Fin 8 :=
  (w.extractLsb' lo 3).toFin

/-- A 2-bit multifunction source field. -/
def offAt {W : Nat} (w : BitVec W) (lo : Nat) : Fin 4 :=
  (w.extractLsb' lo 2).toFin

/-- The G bit: 0 is DAG1 or data memory, 1 is DAG2 or program memory (R143). -/
def dagAt {W : Nat} (w : BitVec W) (lo : Nat) : Dag :=
  if flagAt w lo then .pm else .dm

/-- The G bit of a DAG. -/
def Dag.bit : Dag → BitVec 1
  | .dm => 0#1
  | .pm => 1#1

/-- The number of the register that a 3-bit field names in this DAG: `8 * g + field` (30_encoding.md R143). -/
def Dag.reg (g : Dag) (field : Fin 8) : RegNum :=
  match g with
  | .dm => ⟨field.val, by omega⟩
  | .pm => ⟨8 + field.val, by omega⟩

/-! ### Codes -/

/-- The number of a condition (R170). -/
def Cond.code : Cond → BitVec 5
  | .eq => 0#5
  | .lt => 1#5
  | .le => 2#5
  | .ac => 3#5
  | .av => 4#5
  | .mv => 5#5
  | .ms => 6#5
  | .sv => 7#5
  | .sz => 8#5
  | .tf => 13#5
  | .bm => 14#5
  | .lce => 15#5
  | .ne => 16#5
  | .ge => 17#5
  | .gt => 18#5
  | .notAc => 19#5
  | .notAv => 20#5
  | .notMv => 21#5
  | .notMs => 22#5
  | .notSv => 23#5
  | .notSz => 24#5
  | .notTf => 29#5
  | .notBm => 30#5
  | .always => 31#5
  | .flag n => BitVec.ofNat 5 (9 + n.val)
  | .notFlag n => BitVec.ofNat 5 (25 + n.val)

/-- The condition of a number (R170). -/
def Cond.ofCode (c : BitVec 5) : Cond :=
  match c.toNat with
  | 0 => .eq
  | 1 => .lt
  | 2 => .le
  | 3 => .ac
  | 4 => .av
  | 5 => .mv
  | 6 => .ms
  | 7 => .sv
  | 8 => .sz
  | 13 => .tf
  | 14 => .bm
  | 15 => .lce
  | 16 => .ne
  | 17 => .ge
  | 18 => .gt
  | 19 => .notAc
  | 20 => .notAv
  | 21 => .notMv
  | 22 => .notMs
  | 23 => .notSv
  | 24 => .notSz
  | 29 => .notTf
  | 30 => .notBm
  | 9 => .flag 0
  | 10 => .flag 1
  | 11 => .flag 2
  | 12 => .flag 3
  | 25 => .notFlag 0
  | 26 => .notFlag 1
  | 27 => .notFlag 2
  | 28 => .notFlag 3
  | _ => .always

/-- The low nibble of a system register's code (R166). -/
def SReg.code : SReg → BitVec 4
  | .ustat1 => 0#4
  | .ustat2 => 1#4
  | .mode1 => 2#4
  | .mmask => 3#4
  | .mode2 => 4#4
  | .flags => 5#4
  | .astatx => 6#4
  | .astaty => 7#4
  | .stkyx => 8#4
  | .stkyy => 9#4
  | .irptl => 10#4
  | .imask => 11#4
  | .imaskp => 12#4
  | .lirptl => 13#4
  | .ustat3 => 14#4
  | .ustat4 => 15#4

/-- The system register of a low nibble (R166). -/
def SReg.ofCode (c : BitVec 4) : SReg :=
  match c.toNat with
  | 0 => .ustat1
  | 1 => .ustat2
  | 2 => .mode1
  | 3 => .mmask
  | 4 => .mode2
  | 5 => .flags
  | 6 => .astatx
  | 7 => .astaty
  | 8 => .stkyx
  | 9 => .stkyy
  | 10 => .irptl
  | 11 => .imask
  | 12 => .imaskp
  | 13 => .lirptl
  | 14 => .ustat3
  | _ => .ustat4

/-- The universal register code, as it appears to PEx (R160). -/
def UReg.code : UReg → BitVec 7
  | .r n => place 7 4 0#3 ||| place 7 0 (BitVec.ofFin (w := 4) n)
  | .i n => place 7 4 1#3 ||| place 7 0 (BitVec.ofFin (w := 4) n)
  | .m n => place 7 4 2#3 ||| place 7 0 (BitVec.ofFin (w := 4) n)
  | .l n => place 7 4 3#3 ||| place 7 0 (BitVec.ofFin (w := 4) n)
  | .b n => place 7 4 4#3 ||| place 7 0 (BitVec.ofFin (w := 4) n)
  | .s n => place 7 4 5#3 ||| place 7 0 (BitVec.ofFin (w := 4) n)
  | .faddr => 0x60#7
  | .daddr => 0x61#7
  | .pc => 0x63#7
  | .pcstk => 0x64#7
  | .pcstkp => 0x65#7
  | .laddr => 0x66#7
  | .curlcntr => 0x67#7
  | .lcntr => 0x68#7
  | .emuclk => 0x69#7
  | .emuclk2 => 0x6A#7
  | .px => 0x6B#7
  | .px1 => 0x6C#7
  | .px2 => 0x6D#7
  | .tperiod => 0x6E#7
  | .tcount => 0x6F#7
  | .sys reg => place 7 4 7#3 ||| place 7 0 reg.code

/-- The universal register of a code; code 0x62 is none (R160). -/
def UReg.ofCode (c : BitVec 7) : Option UReg :=
  match (c.extractLsb' 4 3).toNat with
  | 0 => some (.r (regAt c 0))
  | 1 => some (.i (regAt c 0))
  | 2 => some (.m (regAt c 0))
  | 3 => some (.l (regAt c 0))
  | 4 => some (.b (regAt c 0))
  | 5 => some (.s (regAt c 0))
  | 6 =>
    match (c.extractLsb' 0 4).toNat with
    | 0x0 => some .faddr
    | 0x1 => some .daddr
    | 0x3 => some .pc
    | 0x4 => some .pcstk
    | 0x5 => some .pcstkp
    | 0x6 => some .laddr
    | 0x7 => some .curlcntr
    | 0x8 => some .lcntr
    | 0x9 => some .emuclk
    | 0xA => some .emuclk2
    | 0xB => some .px
    | 0xC => some .px1
    | 0xD => some .px2
    | 0xE => some .tperiod
    | 0xF => some .tcount
    | _ => none
  | _ => some (.sys (SReg.ofCode (c.extractLsb' 0 4)))

/-- A 7-bit UREG field. -/
def uregAt (w : InstrWord) (lo : Nat) : Except DecodeError UReg :=
  match UReg.ofCode (w.extractLsb' lo 7) with
  | some u => .ok u
  | none => .error .reservedUreg

/-! ### The compute field -/

/-- The opcode of the operation, COMPUTE[19:12] (44_alu_fixed.md). -/
def FixOp2.opcode : FixOp2 → BitVec 8
  | .add => 0x01#8
  | .sub => 0x02#8
  | .addCi => 0x05#8
  | .subCi => 0x06#8
  | .avg => 0x09#8
  | .and => 0x40#8
  | .or => 0x41#8
  | .xor => 0x42#8
  | .min => 0x61#8
  | .max => 0x62#8
  | .clip => 0x63#8

/-- The opcode of the operation, COMPUTE[19:12] (44_alu_fixed.md). -/
def FixOp1.opcode : FixOp1 → BitVec 8
  | .incCi => 0x25#8
  | .decCi => 0x26#8
  | .inc => 0x29#8
  | .dec => 0x2A#8
  | .neg => 0x22#8
  | .abs => 0x30#8
  | .pass => 0x21#8
  | .not => 0x43#8

/-- The opcode of the operation, COMPUTE[19:12] (45_alu_float.md). -/
def FltOp2.opcode : FltOp2 → BitVec 8
  | .add => 0x81#8
  | .sub => 0x82#8
  | .absAdd => 0x91#8
  | .absSub => 0x92#8
  | .avg => 0x89#8
  | .scalb => 0xBD#8
  | .fixBy => 0xD9#8
  | .truncBy => 0xDD#8
  | .floatBy => 0xDA#8
  | .copysign => 0xE0#8
  | .min => 0xE1#8
  | .max => 0xE2#8
  | .clip => 0xE3#8

/-- The opcode of the operation, COMPUTE[19:12] (45_alu_float.md). -/
def FltOp1.opcode : FltOp1 → BitVec 8
  | .neg => 0xA2#8
  | .abs => 0xB0#8
  | .rnd => 0xA5#8
  | .mant => 0xAD#8
  | .logb => 0xC1#8
  | .fix => 0xC9#8
  | .trunc => 0xCD#8
  | .float => 0xCA#8
  | .recips => 0xC4#8
  | .rsqrts => 0xC5#8
  | .pass => 0xA1#8

/-- The opcode of the operation, COMPUTE[19:12] (47_shifter.md). -/
def ShiftOp.opcode : ShiftOp → BitVec 8
  | .lshift => 0x00#8
  | .orLshift => 0x20#8
  | .ashift => 0x04#8
  | .orAshift => 0x24#8
  | .rot => 0x08#8
  | .bclr => 0xC4#8
  | .bset => 0xC0#8
  | .btgl => 0xC8#8

/-- The opcode of the operation, COMPUTE[19:12] (47_shifter.md). -/
def FieldOp.opcode : FieldOp → BitVec 8
  | .fdep => 0x44#8
  | .orFdep => 0x64#8
  | .fdepSe => 0x4C#8
  | .orFdepSe => 0x6C#8
  | .fext => 0x40#8
  | .fextSe => 0x48#8

/-- The opcode of the operation, COMPUTE[19:12] (47_shifter.md). -/
def ShiftOp1.opcode : ShiftOp1 → BitVec 8
  | .exp => 0x80#8
  | .expEx => 0x84#8
  | .leftz => 0x88#8
  | .lefto => 0x8C#8
  | .fpack => 0x90#8
  | .funpack => 0x94#8

/-- Bit f of a format (46_multiplier.md R451). -/
def MulFormat.f : MulFormat → BitVec 1
  | .integer => 0#1
  | .fractional => 1#1
  | .rounded => 1#1

/-- Bit r of a format (46_multiplier.md R451). -/
def MulFormat.r : MulFormat → BitVec 1
  | .integer => 0#1
  | .fractional => 0#1
  | .rounded => 1#1

/-- The low destination bit: MRF or MRB. -/
def MrBank.bit : MrBank → BitVec 1
  | .f => 0#1
  | .b => 1#1

/-- MRF or MRB by the low destination bit. -/
def bankAt (c : ComputeWord) (lo : Nat) : MrBank :=
  if flagAt c lo then .b else .f

/-- The Ai code of an MR part (46_multiplier.md R470). -/
def aiCode : MrBank → MrPart → BitVec 4
  | .f, .mr0 => 0#4
  | .f, .mr1 => 1#4
  | .f, .mr2 => 2#4
  | .b, .mr0 => 4#4
  | .b, .mr1 => 5#4
  | .b, .mr2 => 6#4

/-- OPCODE[1:0] of a fixed-point multifunction operation (48_multifunction.md R535). -/
def MfFixOp.code : MfFixOp → BitVec 2
  | .add => 0#2
  | .sub => 1#2
  | .avg => 2#2

/-- OPCODE[6:2] of a fixed-point multifunction operation that writes a register (48_multifunction.md R535). -/
def MfMulOp.code : MfMulOp → BitVec 5
  | .mul => 0b10001#5
  | .mac => 0b10011#5
  | .msu => 0b10101#5

/-- The OPCODE of a floating-point multifunction operation (48_multifunction.md R535). -/
def MfFltOp.code : MfFltOp → BitVec 7
  | .add => 0x58#7
  | .sub => 0x59#7
  | .float => 0x5A#7
  | .fix => 0x5B#7
  | .max => 0x5E#7
  | .min => 0x5F#7

/-- The bits of a register number. -/
def regBits (r : RegNum) : BitVec 4 :=
  BitVec.ofFin (w := 4) r

/-- The bits of an I or M field. -/
def idxBits (i : Fin 8) : BitVec 3 :=
  BitVec.ofFin (w := 3) i

/-- The bits of a multifunction source field. -/
def offBits (i : Fin 4) : BitVec 2 :=
  BitVec.ofFin (w := 2) i

/-- Three 4-bit register fields at bits 11-8, 7-4, 3-0. -/
def regs3 (rn rx ry : RegNum) : ComputeWord :=
  place 23 8 (regBits rn) ||| place 23 4 (regBits rx) ||| place 23 0 (regBits ry)

/-- A single-function operation (30_encoding.md R177). -/
def single (cu : BitVec 3) (op : BitVec 8) (rn rx ry : RegNum) : ComputeWord :=
  place 23 20 cu ||| place 23 12 op ||| regs3 rn rx ry

/-- A multiply, accumulate or subtract: `cc y x f dd r` (46_multiplier.md R451). -/
def mulWord (cc : BitVec 2) (m : Mod2) (dd : BitVec 1) (bank : BitVec 1) (rn rx ry : RegNum) : ComputeWord :=
  place 23 20 1#3 ||| place 23 18 cc ||| place 23 17 (BitVec.ofBool m.ySigned) |||
    place 23 16 (BitVec.ofBool m.xSigned) ||| place 23 15 m.format.f ||| place 23 14 dd ||| place 23 13 bank |||
    place 23 12 m.format.r ||| regs3 rn rx ry

/-- The four 2-bit source fields of a multifunction operation (48_multifunction.md R531). -/
def mfSources (mi : MfMulIn) (xa ya : Fin 4) : ComputeWord :=
  place 23 6 (offBits mi.xm) ||| place 23 4 (offBits mi.ym) ||| place 23 2 (offBits xa) ||| place 23 0 (offBits ya)

/-- The compute field of an operation (R177 to R181). -/
def encodeCompute : Compute → ComputeWord
  | .nop => 0#23
  | .fix2 op rn rx ry => single 0#3 op.opcode rn rx ry
  | .fix1 op rn rx => single 0#3 op.opcode rn rx 0
  | .compFix false rx ry => single 0#3 0x0A#8 0 rx ry
  | .compFix true rx ry => single 0#3 0x0B#8 0 rx ry
  | .flt2 op rn rx ry => single 0#3 op.opcode rn rx ry
  | .flt1 op rn rx => single 0#3 op.opcode rn rx 0
  | .compFlt rx ry => single 0#3 0x8A#8 0 rx ry
  | .mulRn m rn rx ry => mulWord 1#2 m 0#1 0#1 rn rx ry
  | .mulMr dst m rx ry => mulWord 1#2 m 1#1 dst.bit 0 rx ry
  | .macRn false src m rn rx ry => mulWord 2#2 m 0#1 src.bit rn rx ry
  | .macRn true src m rn rx ry => mulWord 3#2 m 0#1 src.bit rn rx ry
  | .macMr false acc m rx ry => mulWord 2#2 m 1#1 acc.bit 0 rx ry
  | .macMr true acc m rx ry => mulWord 3#2 m 1#1 acc.bit 0 rx ry
  | .satRn src m rn =>
    place 23 20 1#3 ||| place 23 15 (BitVec.ofBool m.fractional) ||| place 23 13 src.bit |||
      place 23 12 (BitVec.ofBool m.signed) ||| place 23 8 (regBits rn)
  | .satMr acc m =>
    place 23 20 1#3 ||| place 23 15 (BitVec.ofBool m.fractional) ||| place 23 14 1#1 ||| place 23 13 acc.bit |||
      place 23 12 (BitVec.ofBool m.signed)
  | .rndRn src signed rn =>
    place 23 20 1#3 ||| place 23 15 3#5 ||| place 23 13 src.bit |||
      place 23 12 (BitVec.ofBool signed) ||| place 23 8 (regBits rn)
  | .rndMr acc signed =>
    place 23 20 1#3 ||| place 23 15 3#5 ||| place 23 14 1#1 ||| place 23 13 acc.bit |||
      place 23 12 (BitVec.ofBool signed)
  | .clrMr .f => single 1#3 0x14#8 0 0 0
  | .clrMr .b => single 1#3 0x16#8 0 0 0
  | .mulFlt rn rx ry => single 1#3 0x30#8 rn rx ry
  | .putMr bank part rk => place 23 17 0b100000#6 ||| place 23 16 1#1 ||| place 23 12 (aiCode bank part) |||
      place 23 8 (regBits rk)
  | .getMr bank part rk => place 23 17 0b100000#6 ||| place 23 12 (aiCode bank part) ||| place 23 8 (regBits rk)
  | .shift op rn rx ry => single 2#3 op.opcode rn rx ry
  | .btst rx ry => single 2#3 0xCC#8 0 rx ry
  | .field op rn rx ry => single 2#3 op.opcode rn rx ry
  | .shift1 op rn rx => single 2#3 op.opcode rn rx 0
  | .dualFix ra rs rx ry => place 23 16 0b0111#4 ||| place 23 12 (regBits rs) ||| regs3 ra rx ry
  | .dualFlt ra rs rx ry => place 23 16 0b1111#4 ||| place 23 12 (regBits rs) ||| regs3 ra rx ry
  | .mulAluFix mop aop rm ra mi ai =>
    place 23 18 mop.code ||| place 23 16 aop.code ||| place 23 12 (regBits rm) ||| place 23 8 (regBits ra) |||
      mfSources mi ai.xa ai.ya
  | .macAluFix false aop ra mi ai =>
    place 23 18 0b10010#5 ||| place 23 16 aop.code ||| place 23 8 (regBits ra) ||| mfSources mi ai.xa ai.ya
  | .macAluFix true aop ra mi ai =>
    place 23 18 0b10100#5 ||| place 23 16 aop.code ||| place 23 8 (regBits ra) ||| mfSources mi ai.xa ai.ya
  | .mulAluFlt aop rm ra mi ai =>
    place 23 16 aop.code ||| place 23 12 (regBits rm) ||| place 23 8 (regBits ra) ||| mfSources mi ai.xa ai.ya
  | .mulAbsFlt rm ra mi xa =>
    place 23 16 0x5D#7 ||| place 23 12 (regBits rm) ||| place 23 8 (regBits ra) ||| mfSources mi xa 0
  | .mulDualFix rs rm ra mi ai =>
    place 23 20 6#3 ||| place 23 16 (regBits rs) ||| place 23 12 (regBits rm) ||| place 23 8 (regBits ra) |||
      mfSources mi ai.xa ai.ya
  | .mulDualFlt rs rm ra mi ai =>
    place 23 20 7#3 ||| place 23 16 (regBits rs) ||| place 23 12 (regBits rm) ||| place 23 8 (regBits ra) |||
      mfSources mi ai.xa ai.ya

/-- An ALU opcode (Tables 6-1 and 6-2; 44_alu_fixed.md R385, 45_alu_float.md R431). Opcode 0 with its register
fields 0 is the compute no-operation (R178). -/
def decodeAlu (op : BitVec 8) (rn rx ry : RegNum) : Except DecodeError Compute :=
  match op.toNat with
  | 0x00 => if rn = 0 ∧ rx = 0 ∧ ry = 0 then .ok .nop else .error .reservedCompute
  | 0x01 => .ok (.fix2 .add rn rx ry)
  | 0x02 => .ok (.fix2 .sub rn rx ry)
  | 0x05 => .ok (.fix2 .addCi rn rx ry)
  | 0x06 => .ok (.fix2 .subCi rn rx ry)
  | 0x09 => .ok (.fix2 .avg rn rx ry)
  | 0x0A => .ok (.compFix false rx ry)
  | 0x0B => .ok (.compFix true rx ry)
  | 0x21 => .ok (.fix1 .pass rn rx)
  | 0x22 => .ok (.fix1 .neg rn rx)
  | 0x25 => .ok (.fix1 .incCi rn rx)
  | 0x26 => .ok (.fix1 .decCi rn rx)
  | 0x29 => .ok (.fix1 .inc rn rx)
  | 0x2A => .ok (.fix1 .dec rn rx)
  | 0x30 => .ok (.fix1 .abs rn rx)
  | 0x40 => .ok (.fix2 .and rn rx ry)
  | 0x41 => .ok (.fix2 .or rn rx ry)
  | 0x42 => .ok (.fix2 .xor rn rx ry)
  | 0x43 => .ok (.fix1 .not rn rx)
  | 0x61 => .ok (.fix2 .min rn rx ry)
  | 0x62 => .ok (.fix2 .max rn rx ry)
  | 0x63 => .ok (.fix2 .clip rn rx ry)
  | 0x81 => .ok (.flt2 .add rn rx ry)
  | 0x82 => .ok (.flt2 .sub rn rx ry)
  | 0x89 => .ok (.flt2 .avg rn rx ry)
  | 0x8A => .ok (.compFlt rx ry)
  | 0x91 => .ok (.flt2 .absAdd rn rx ry)
  | 0x92 => .ok (.flt2 .absSub rn rx ry)
  | 0xA1 => .ok (.flt1 .pass rn rx)
  | 0xA2 => .ok (.flt1 .neg rn rx)
  | 0xA5 => .ok (.flt1 .rnd rn rx)
  | 0xAD => .ok (.flt1 .mant rn rx)
  | 0xB0 => .ok (.flt1 .abs rn rx)
  | 0xBD => .ok (.flt2 .scalb rn rx ry)
  | 0xC1 => .ok (.flt1 .logb rn rx)
  | 0xC4 => .ok (.flt1 .recips rn rx)
  | 0xC5 => .ok (.flt1 .rsqrts rn rx)
  | 0xC9 => .ok (.flt1 .fix rn rx)
  | 0xCA => .ok (.flt1 .float rn rx)
  | 0xCD => .ok (.flt1 .trunc rn rx)
  | 0xD9 => .ok (.flt2 .fixBy rn rx ry)
  | 0xDA => .ok (.flt2 .floatBy rn rx ry)
  | 0xDD => .ok (.flt2 .truncBy rn rx ry)
  | 0xE0 => .ok (.flt2 .copysign rn rx ry)
  | 0xE1 => .ok (.flt2 .min rn rx ry)
  | 0xE2 => .ok (.flt2 .max rn rx ry)
  | 0xE3 => .ok (.flt2 .clip rn rx ry)
  | _ => .error .reservedCompute

/-- A shifter opcode (Table 6-8; 47_shifter.md R514). -/
def decodeShift (op : BitVec 8) (rn rx ry : RegNum) : Except DecodeError Compute :=
  match op.toNat with
  | 0x00 => .ok (.shift .lshift rn rx ry)
  | 0x04 => .ok (.shift .ashift rn rx ry)
  | 0x08 => .ok (.shift .rot rn rx ry)
  | 0x20 => .ok (.shift .orLshift rn rx ry)
  | 0x24 => .ok (.shift .orAshift rn rx ry)
  | 0x40 => .ok (.field .fext rn rx ry)
  | 0x44 => .ok (.field .fdep rn rx ry)
  | 0x48 => .ok (.field .fextSe rn rx ry)
  | 0x4C => .ok (.field .fdepSe rn rx ry)
  | 0x64 => .ok (.field .orFdep rn rx ry)
  | 0x6C => .ok (.field .orFdepSe rn rx ry)
  | 0x80 => .ok (.shift1 .exp rn rx)
  | 0x84 => .ok (.shift1 .expEx rn rx)
  | 0x88 => .ok (.shift1 .leftz rn rx)
  | 0x8C => .ok (.shift1 .lefto rn rx)
  | 0x90 => .ok (.shift1 .fpack rn rx)
  | 0x94 => .ok (.shift1 .funpack rn rx)
  | 0xC0 => .ok (.shift .bset rn rx ry)
  | 0xC4 => .ok (.shift .bclr rn rx ry)
  | 0xC8 => .ok (.shift .btgl rn rx ry)
  | 0xCC => .ok (.btst rx ry)
  | _ => .error .reservedCompute

/-- The format of bits f and r (46_multiplier.md R451). -/
def mulFormatOf (f r : Bool) : Option MulFormat :=
  match f, r with
  | false, false => some .integer
  | true, false => some .fractional
  | true, true => some .rounded
  | false, true => none

/-- A multiply, accumulate or subtract with `cc` = 01, 10 or 11 (46_multiplier.md R451, R485). -/
def decodeMulAcc (cc : Nat) (m : Mod2) (toMr : Bool) (bank : MrBank) (rn rx ry : RegNum) :
    Except DecodeError Compute :=
  match cc with
  | 1 =>
    if toMr then .ok (.mulMr bank m rx ry)
    else
      match bank with
      | .f => .ok (.mulRn m rn rx ry)
      | .b => .error .reservedCompute
  | 2 => if toMr then .ok (.macMr false bank m rx ry) else .ok (.macRn false bank m rn rx ry)
  | _ => if toMr then .ok (.macMr true bank m rx ry) else .ok (.macRn true bank m rn rx ry)

/-- A multiplier opcode (Tables 6-3 and 6-4; 46_multiplier.md R485). -/
def decodeMul (c : ComputeWord) : Except DecodeError Compute :=
  let rn := regAt c 8
  let rx := regAt c 4
  let ry := regAt c 0
  match (c.extractLsb' 18 2).toNat with
  | 0 =>
    match (c.extractLsb' 16 2).toNat with
    | 0 =>
      let m : Mod1 := ⟨flagAt c 15, flagAt c 12⟩
      if flagAt c 14 then .ok (.satMr (bankAt c 13) m) else .ok (.satRn (bankAt c 13) m rn)
    | 1 =>
      if flagAt c 15 then
        if flagAt c 14 then .ok (.rndMr (bankAt c 13) (flagAt c 12))
        else .ok (.rndRn (bankAt c 13) (flagAt c 12) rn)
      else if flagAt c 14 ∧ ¬ flagAt c 12 then .ok (.clrMr (bankAt c 13))
      else .error .reservedCompute
    | 3 => if c.extractLsb' 12 4 = 0#4 then .ok (.mulFlt rn rx ry) else .error .reservedCompute
    | _ => .error .reservedCompute
  | cc =>
    match mulFormatOf (flagAt c 15) (flagAt c 12) with
    | some fmt => decodeMulAcc cc ⟨flagAt c 16, flagAt c 17, fmt⟩ (flagAt c 14) (bankAt c 13) rn rx ry
    | none => .error .reservedCompute

/-- The MR part of an Ai code (46_multiplier.md R470). -/
def aiOf (ai : BitVec 4) : Option (MrBank × MrPart) :=
  match ai.toNat with
  | 0 => some (.f, .mr0)
  | 1 => some (.f, .mr1)
  | 2 => some (.f, .mr2)
  | 4 => some (.b, .mr0)
  | 5 => some (.b, .mr1)
  | 6 => some (.b, .mr2)
  | _ => none

/-- An MR transfer (46_multiplier.md R470). -/
def decodeMrTransfer (c : ComputeWord) : Except DecodeError Compute :=
  match aiOf (c.extractLsb' 12 4) with
  | some (bank, part) =>
    if flagAt c 16 then .ok (.putMr bank part (regAt c 8)) else .ok (.getMr bank part (regAt c 8))
  | none => .error .reservedCompute

/-- The ALU half of a fixed-point multifunction opcode; 11 is reserved (48_multifunction.md R535). -/
def mfFixOf (aa : BitVec 2) : Option MfFixOp :=
  match aa.toNat with
  | 0 => some .add
  | 1 => some .sub
  | 2 => some .avg
  | _ => none

/-- A multifunction opcode of Table 6-11 (48_multifunction.md R535, R545), or an MR transfer. -/
def decodeMulAlu (c : ComputeWord) : Except DecodeError Compute :=
  let rm := regAt c 12
  let ra := regAt c 8
  let mi : MfMulIn := ⟨offAt c 6, offAt c 4⟩
  let ai : MfAluIn := ⟨offAt c 2, offAt c 0⟩
  match (c.extractLsb' 18 5).toNat with
  | 0b10000 => if c.extractLsb' 17 1 = 0#1 then decodeMrTransfer c else .error .reservedCompute
  | 0b10001 =>
    match mfFixOf (c.extractLsb' 16 2) with
    | some aop => .ok (.mulAluFix .mul aop rm ra mi ai)
    | none => .error .reservedCompute
  | 0b10010 =>
    match mfFixOf (c.extractLsb' 16 2) with
    | some aop => .ok (.macAluFix false aop ra mi ai)
    | none => .error .reservedCompute
  | 0b10011 =>
    match mfFixOf (c.extractLsb' 16 2) with
    | some aop => .ok (.mulAluFix .mac aop rm ra mi ai)
    | none => .error .reservedCompute
  | 0b10100 =>
    match mfFixOf (c.extractLsb' 16 2) with
    | some aop => .ok (.macAluFix true aop ra mi ai)
    | none => .error .reservedCompute
  | 0b10101 =>
    match mfFixOf (c.extractLsb' 16 2) with
    | some aop => .ok (.mulAluFix .msu aop rm ra mi ai)
    | none => .error .reservedCompute
  | _ =>
    match (c.extractLsb' 16 7).toNat with
    | 0x58 => .ok (.mulAluFlt .add rm ra mi ai)
    | 0x59 => .ok (.mulAluFlt .sub rm ra mi ai)
    | 0x5A => .ok (.mulAluFlt .float rm ra mi ai)
    | 0x5B => .ok (.mulAluFlt .fix rm ra mi ai)
    | 0x5D => .ok (.mulAbsFlt rm ra mi ai.xa)
    | 0x5E => .ok (.mulAluFlt .max rm ra mi ai)
    | 0x5F => .ok (.mulAluFlt .min rm ra mi ai)
    | _ => .error .reservedCompute

/-- The operation of a compute field, in the decode order of R177. -/
def decodeCompute (c : ComputeWord) : Except DecodeError Compute :=
  match (c.extractLsb' 20 3).toNat with
  | 0 =>
    if c.extractLsb' 16 4 = 0b0111#4 then .ok (.dualFix (regAt c 8) (regAt c 12) (regAt c 4) (regAt c 0))
    else if c.extractLsb' 16 4 = 0b1111#4 then .ok (.dualFlt (regAt c 8) (regAt c 12) (regAt c 4) (regAt c 0))
    else decodeAlu (c.extractLsb' 12 8) (regAt c 8) (regAt c 4) (regAt c 0)
  | 1 => decodeMul c
  | 2 => decodeShift (c.extractLsb' 12 8) (regAt c 8) (regAt c 4) (regAt c 0)
  | 3 => .error .reservedCompute
  | 6 => .ok (.mulDualFix (regAt c 16) (regAt c 12) (regAt c 8) ⟨offAt c 6, offAt c 4⟩ ⟨offAt c 2, offAt c 0⟩)
  | 7 => .ok (.mulDualFlt (regAt c 16) (regAt c 12) (regAt c 8) ⟨offAt c 6, offAt c 4⟩ ⟨offAt c 2, offAt c 0⟩)
  | _ => decodeMulAlu c

/-! ### The shifter immediate -/

/-- The SHIFTOP of an immediate operation, the upper six bits of its opcode (R180). -/
def ShiftImm.shiftOp : ShiftImm → BitVec 6
  | .shift op _ _ _ => op.opcode.extractLsb' 2 6
  | .btst _ _ => 0x33#6
  | .field op _ _ _ _ => op.opcode.extractLsb' 2 6
  | .shift1 op _ _ => op.opcode.extractLsb' 2 6

/-- The shifter part of a Type 6 word: DATAEX at bits 30-27, SHIFTOP, DATA, RN, RX (R180). The 12-bit immediate of the
field operations is `len6 ++ bit6`. -/
def encodeShiftImm (sh : ShiftImm) : InstrWord :=
  place 48 16 sh.shiftOp |||
  match sh with
  | .shift _ data rn rx => place 48 8 data ||| place 48 4 (regBits rn) ||| place 48 0 (regBits rx)
  | .btst data rx => place 48 8 data ||| place 48 0 (regBits rx)
  | .field _ bit6 len6 rn rx =>
    place 48 27 (len6.extractLsb' 2 4) ||| place 48 14 (len6.extractLsb' 0 2) ||| place 48 8 bit6 |||
      place 48 4 (regBits rn) ||| place 48 0 (regBits rx)
  | .shift1 _ rn rx => place 48 4 (regBits rn) ||| place 48 0 (regBits rx)

/-- The operation of a SHIFTOP with its immediate (R180, R514). -/
def shiftImmOf (op : BitVec 6) (data : BitVec 8) (bit6 len6 : BitVec 6) (rn rx : RegNum) :
    Except DecodeError ShiftImm :=
  match op.toNat with
  | 0x00 => .ok (.shift .lshift data rn rx)
  | 0x01 => .ok (.shift .ashift data rn rx)
  | 0x02 => .ok (.shift .rot data rn rx)
  | 0x08 => .ok (.shift .orLshift data rn rx)
  | 0x09 => .ok (.shift .orAshift data rn rx)
  | 0x10 => .ok (.field .fext bit6 len6 rn rx)
  | 0x11 => .ok (.field .fdep bit6 len6 rn rx)
  | 0x12 => .ok (.field .fextSe bit6 len6 rn rx)
  | 0x13 => .ok (.field .fdepSe bit6 len6 rn rx)
  | 0x19 => .ok (.field .orFdep bit6 len6 rn rx)
  | 0x1B => .ok (.field .orFdepSe bit6 len6 rn rx)
  | 0x20 => .ok (.shift1 .exp rn rx)
  | 0x21 => .ok (.shift1 .expEx rn rx)
  | 0x22 => .ok (.shift1 .leftz rn rx)
  | 0x23 => .ok (.shift1 .lefto rn rx)
  | 0x24 => .ok (.shift1 .fpack rn rx)
  | 0x25 => .ok (.shift1 .funpack rn rx)
  | 0x30 => .ok (.shift .bset data rn rx)
  | 0x31 => .ok (.shift .bclr data rn rx)
  | 0x32 => .ok (.shift .btgl data rn rx)
  | 0x33 => .ok (.btst data rx)
  | _ => .error .reservedShiftOp

/-- The shifter part of a Type 6 word (R180). -/
def decodeShiftImm (w : InstrWord) : Except DecodeError ShiftImm :=
  shiftImmOf (w.extractLsb' 16 6) (w.extractLsb' 8 8) (w.extractLsb' 8 6)
    (w.extractLsb' 27 4 ++ w.extractLsb' 14 2) (regAt w 4) (regAt w 0)

/-! ### Instructions that are one compute -/

/-- The instruction that is this compute alone. -/
def Instr.ofCompute : Compute → Instr
  | .nop => .noCompute
  | .fix2 .add rn rx ry => .addFix rn rx ry
  | .fix2 .sub rn rx ry => .subFix rn rx ry
  | .fix2 .addCi rn rx ry => .addCi rn rx ry
  | .fix2 .subCi rn rx ry => .subCi rn rx ry
  | .fix2 .avg rn rx ry => .avgFix rn rx ry
  | .fix2 .and rn rx ry => .andFix rn rx ry
  | .fix2 .or rn rx ry => .orFix rn rx ry
  | .fix2 .xor rn rx ry => .xorFix rn rx ry
  | .fix2 .min rn rx ry => .minFix rn rx ry
  | .fix2 .max rn rx ry => .maxFix rn rx ry
  | .fix2 .clip rn rx ry => .clipFix rn rx ry
  | .fix1 .incCi rn rx => .incCi rn rx
  | .fix1 .decCi rn rx => .decCi rn rx
  | .fix1 .inc rn rx => .incFix rn rx
  | .fix1 .dec rn rx => .decFix rn rx
  | .fix1 .neg rn rx => .negFix rn rx
  | .fix1 .abs rn rx => .absFix rn rx
  | .fix1 .pass rn rx => .passFix rn rx
  | .fix1 .not rn rx => .notFix rn rx
  | .compFix false rx ry => .compFix rx ry
  | .compFix true rx ry => .compuFix rx ry
  | .flt2 .add rn rx ry => .addFlt rn rx ry
  | .flt2 .sub rn rx ry => .subFlt rn rx ry
  | .flt2 .absAdd rn rx ry => .absAddFlt rn rx ry
  | .flt2 .absSub rn rx ry => .absSubFlt rn rx ry
  | .flt2 .avg rn rx ry => .avgFlt rn rx ry
  | .flt2 .scalb rn rx ry => .scalb rn rx ry
  | .flt2 .fixBy rn rx ry => .fixBy rn rx ry
  | .flt2 .truncBy rn rx ry => .truncBy rn rx ry
  | .flt2 .floatBy rn rx ry => .floatBy rn rx ry
  | .flt2 .copysign rn rx ry => .copysign rn rx ry
  | .flt2 .min rn rx ry => .minFlt rn rx ry
  | .flt2 .max rn rx ry => .maxFlt rn rx ry
  | .flt2 .clip rn rx ry => .clipFlt rn rx ry
  | .flt1 .neg rn rx => .negFlt rn rx
  | .flt1 .abs rn rx => .absFlt rn rx
  | .flt1 .pass rn rx => .passFlt rn rx
  | .flt1 .rnd rn rx => .rndFlt rn rx
  | .flt1 .mant rn rx => .mant rn rx
  | .flt1 .logb rn rx => .logb rn rx
  | .flt1 .fix rn rx => .fix rn rx
  | .flt1 .trunc rn rx => .trunc rn rx
  | .flt1 .float rn rx => .float rn rx
  | .flt1 .recips rn rx => .recips rn rx
  | .flt1 .rsqrts rn rx => .rsqrts rn rx
  | .compFlt rx ry => .compFlt rx ry
  | .mulRn m rn rx ry => .mulRn m rn rx ry
  | .mulMr .f m rx ry => .mulMrf m rx ry
  | .mulMr .b m rx ry => .mulMrb m rx ry
  | .macRn false .f m rn rx ry => .macRnMrf m rn rx ry
  | .macRn false .b m rn rx ry => .macRnMrb m rn rx ry
  | .macRn true .f m rn rx ry => .msuRnMrf m rn rx ry
  | .macRn true .b m rn rx ry => .msuRnMrb m rn rx ry
  | .macMr false .f m rx ry => .macMrf m rx ry
  | .macMr false .b m rx ry => .macMrb m rx ry
  | .macMr true .f m rx ry => .msuMrf m rx ry
  | .macMr true .b m rx ry => .msuMrb m rx ry
  | .satRn .f m rn => .satRnMrf m rn
  | .satRn .b m rn => .satRnMrb m rn
  | .satMr .f m => .satMrf m
  | .satMr .b m => .satMrb m
  | .rndRn .f sg rn => .rndRnMrf sg rn
  | .rndRn .b sg rn => .rndRnMrb sg rn
  | .rndMr .f sg => .rndMrf sg
  | .rndMr .b sg => .rndMrb sg
  | .clrMr .f => .clrMrf
  | .clrMr .b => .clrMrb
  | .mulFlt rn rx ry => .mulFlt rn rx ry
  | .putMr .f .mr0 rk => .putMr0f rk
  | .putMr .f .mr1 rk => .putMr1f rk
  | .putMr .f .mr2 rk => .putMr2f rk
  | .putMr .b .mr0 rk => .putMr0b rk
  | .putMr .b .mr1 rk => .putMr1b rk
  | .putMr .b .mr2 rk => .putMr2b rk
  | .getMr .f .mr0 rk => .getMr0f rk
  | .getMr .f .mr1 rk => .getMr1f rk
  | .getMr .f .mr2 rk => .getMr2f rk
  | .getMr .b .mr0 rk => .getMr0b rk
  | .getMr .b .mr1 rk => .getMr1b rk
  | .getMr .b .mr2 rk => .getMr2b rk
  | .shift .lshift rn rx ry => .lshift rn rx ry
  | .shift .orLshift rn rx ry => .orLshift rn rx ry
  | .shift .ashift rn rx ry => .ashift rn rx ry
  | .shift .orAshift rn rx ry => .orAshift rn rx ry
  | .shift .rot rn rx ry => .rot rn rx ry
  | .shift .bclr rn rx ry => .bclr rn rx ry
  | .shift .bset rn rx ry => .bset rn rx ry
  | .shift .btgl rn rx ry => .btgl rn rx ry
  | .btst rx ry => .btst rx ry
  | .field .fdep rn rx ry => .fdep rn rx ry
  | .field .orFdep rn rx ry => .orFdep rn rx ry
  | .field .fdepSe rn rx ry => .fdepSe rn rx ry
  | .field .orFdepSe rn rx ry => .orFdepSe rn rx ry
  | .field .fext rn rx ry => .fext rn rx ry
  | .field .fextSe rn rx ry => .fextSe rn rx ry
  | .shift1 .exp rn rx => .exp rn rx
  | .shift1 .expEx rn rx => .expEx rn rx
  | .shift1 .leftz rn rx => .leftz rn rx
  | .shift1 .lefto rn rx => .lefto rn rx
  | .shift1 .fpack rn rx => .fpack rn rx
  | .shift1 .funpack rn rx => .funpack rn rx
  | .dualFix ra rs rx ry => .dualFix ra rs rx ry
  | .dualFlt ra rs rx ry => .dualFlt ra rs rx ry
  | .mulAluFix .mul .add rm ra mi ai => .mulRnAdd rm ra mi ai
  | .mulAluFix .mul .sub rm ra mi ai => .mulRnSub rm ra mi ai
  | .mulAluFix .mul .avg rm ra mi ai => .mulRnAvg rm ra mi ai
  | .mulAluFix .mac .add rm ra mi ai => .macRnAdd rm ra mi ai
  | .mulAluFix .mac .sub rm ra mi ai => .macRnSub rm ra mi ai
  | .mulAluFix .mac .avg rm ra mi ai => .macRnAvg rm ra mi ai
  | .mulAluFix .msu .add rm ra mi ai => .msuRnAdd rm ra mi ai
  | .mulAluFix .msu .sub rm ra mi ai => .msuRnSub rm ra mi ai
  | .mulAluFix .msu .avg rm ra mi ai => .msuRnAvg rm ra mi ai
  | .macAluFix false .add ra mi ai => .macMrfAdd ra mi ai
  | .macAluFix false .sub ra mi ai => .macMrfSub ra mi ai
  | .macAluFix false .avg ra mi ai => .macMrfAvg ra mi ai
  | .macAluFix true .add ra mi ai => .msuMrfAdd ra mi ai
  | .macAluFix true .sub ra mi ai => .msuMrfSub ra mi ai
  | .macAluFix true .avg ra mi ai => .msuMrfAvg ra mi ai
  | .mulAluFlt .add rm ra mi ai => .fmulAdd rm ra mi ai
  | .mulAluFlt .sub rm ra mi ai => .fmulSub rm ra mi ai
  | .mulAluFlt .float rm ra mi ai => .fmulFloat rm ra mi ai
  | .mulAluFlt .fix rm ra mi ai => .fmulFix rm ra mi ai
  | .mulAluFlt .max rm ra mi ai => .fmulMax rm ra mi ai
  | .mulAluFlt .min rm ra mi ai => .fmulMin rm ra mi ai
  | .mulAbsFlt rm ra mi xa => .fmulAbs rm ra mi xa
  | .mulDualFix rs rm ra mi ai => .mulDualFix rs rm ra mi ai
  | .mulDualFlt rs rm ra mi ai => .mulDualFlt rs rm ra mi ai

/-- The compute an instruction carries: the whole of it for a compute row, the COMPUTE operand for the others,
nothing for the types that have no COMPUTE field. -/
def Instr.compute : Instr → Compute
  | .dualMove c _ _ => c
  | .ifCompute _ c => c
  | .uregMove _ c _ _ _ _ _ _ _ => c
  | .dregMoveImm _ c _ _ _ _ _ _ => c
  | .uregToUreg _ c _ _ => c
  | .swap _ c _ _ => c
  | .modifyReg _ c _ _ _ => c
  | .jumpInd _ _ _ _ _ c => c
  | .jumpRel6 _ _ _ _ c => c
  | .callInd _ _ _ _ _ c => c
  | .callRel6 _ _ _ _ c => c
  | .jumpIndElse _ _ _ c _ => c
  | .jumpRelElse _ _ c _ => c
  | .rts _ _ _ _ c => c
  | .rti _ _ _ c => c
  | .shiftImmMove _ _ _ _ => .nop
  | .shiftImm _ _ => .nop
  | .jumpAbs _ _ _ => .nop
  | .jumpRel _ _ _ => .nop
  | .callAbs _ _ _ => .nop
  | .callRel _ _ _ => .nop
  | .doCountImm _ _ => .nop
  | .doCountReg _ _ => .nop
  | .doUntil _ _ => .nop
  | .storeDirect _ _ _ _ => .nop
  | .loadDirect _ _ _ _ => .nop
  | .storeIndexed _ _ _ _ _ => .nop
  | .loadIndexed _ _ _ _ _ => .nop
  | .storeImm _ _ _ _ => .nop
  | .loadImm _ _ => .nop
  | .bitSet _ _ => .nop
  | .bitClr _ _ => .nop
  | .bitTgl _ _ => .nop
  | .bitTst _ _ => .nop
  | .bitXor _ _ => .nop
  | .modifyImm _ _ _ => .nop
  | .bitrev _ _ _ => .nop
  | .pushPcstk _ => .nop
  | .pushLoop _ _ _ => .nop
  | .pushSts _ _ => .nop
  | .popLoop _ _ _ => .nop
  | .flushCache => .nop
  | .popSts _ _ => .nop
  | .popPcstk _ => .nop
  | .stackNone => .nop
  | .nop => .nop
  | .idle => .nop
  | .cjumpAbs _ => .nop
  | .cjumpRel _ => .nop
  | .rframe => .nop
  | .noCompute => .nop
  | .addFix rn rx ry => .fix2 .add rn rx ry
  | .subFix rn rx ry => .fix2 .sub rn rx ry
  | .addCi rn rx ry => .fix2 .addCi rn rx ry
  | .subCi rn rx ry => .fix2 .subCi rn rx ry
  | .avgFix rn rx ry => .fix2 .avg rn rx ry
  | .andFix rn rx ry => .fix2 .and rn rx ry
  | .orFix rn rx ry => .fix2 .or rn rx ry
  | .xorFix rn rx ry => .fix2 .xor rn rx ry
  | .minFix rn rx ry => .fix2 .min rn rx ry
  | .maxFix rn rx ry => .fix2 .max rn rx ry
  | .clipFix rn rx ry => .fix2 .clip rn rx ry
  | .incCi rn rx => .fix1 .incCi rn rx
  | .decCi rn rx => .fix1 .decCi rn rx
  | .incFix rn rx => .fix1 .inc rn rx
  | .decFix rn rx => .fix1 .dec rn rx
  | .negFix rn rx => .fix1 .neg rn rx
  | .absFix rn rx => .fix1 .abs rn rx
  | .passFix rn rx => .fix1 .pass rn rx
  | .notFix rn rx => .fix1 .not rn rx
  | .compFix rx ry => .compFix false rx ry
  | .compuFix rx ry => .compFix true rx ry
  | .addFlt rn rx ry => .flt2 .add rn rx ry
  | .subFlt rn rx ry => .flt2 .sub rn rx ry
  | .absAddFlt rn rx ry => .flt2 .absAdd rn rx ry
  | .absSubFlt rn rx ry => .flt2 .absSub rn rx ry
  | .avgFlt rn rx ry => .flt2 .avg rn rx ry
  | .scalb rn rx ry => .flt2 .scalb rn rx ry
  | .fixBy rn rx ry => .flt2 .fixBy rn rx ry
  | .truncBy rn rx ry => .flt2 .truncBy rn rx ry
  | .floatBy rn rx ry => .flt2 .floatBy rn rx ry
  | .copysign rn rx ry => .flt2 .copysign rn rx ry
  | .minFlt rn rx ry => .flt2 .min rn rx ry
  | .maxFlt rn rx ry => .flt2 .max rn rx ry
  | .clipFlt rn rx ry => .flt2 .clip rn rx ry
  | .negFlt rn rx => .flt1 .neg rn rx
  | .absFlt rn rx => .flt1 .abs rn rx
  | .passFlt rn rx => .flt1 .pass rn rx
  | .rndFlt rn rx => .flt1 .rnd rn rx
  | .mant rn rx => .flt1 .mant rn rx
  | .logb rn rx => .flt1 .logb rn rx
  | .fix rn rx => .flt1 .fix rn rx
  | .trunc rn rx => .flt1 .trunc rn rx
  | .float rn rx => .flt1 .float rn rx
  | .recips rn rx => .flt1 .recips rn rx
  | .rsqrts rn rx => .flt1 .rsqrts rn rx
  | .compFlt rx ry => .compFlt rx ry
  | .mulRn m rn rx ry => .mulRn m rn rx ry
  | .mulMrf m rx ry => .mulMr .f m rx ry
  | .mulMrb m rx ry => .mulMr .b m rx ry
  | .macRnMrf m rn rx ry => .macRn false .f m rn rx ry
  | .macRnMrb m rn rx ry => .macRn false .b m rn rx ry
  | .msuRnMrf m rn rx ry => .macRn true .f m rn rx ry
  | .msuRnMrb m rn rx ry => .macRn true .b m rn rx ry
  | .macMrf m rx ry => .macMr false .f m rx ry
  | .macMrb m rx ry => .macMr false .b m rx ry
  | .msuMrf m rx ry => .macMr true .f m rx ry
  | .msuMrb m rx ry => .macMr true .b m rx ry
  | .satRnMrf m rn => .satRn .f m rn
  | .satRnMrb m rn => .satRn .b m rn
  | .satMrf m => .satMr .f m
  | .satMrb m => .satMr .b m
  | .rndRnMrf sg rn => .rndRn .f sg rn
  | .rndRnMrb sg rn => .rndRn .b sg rn
  | .rndMrf sg => .rndMr .f sg
  | .rndMrb sg => .rndMr .b sg
  | .clrMrf => .clrMr .f
  | .clrMrb => .clrMr .b
  | .mulFlt rn rx ry => .mulFlt rn rx ry
  | .putMr0f rk => .putMr .f .mr0 rk
  | .putMr1f rk => .putMr .f .mr1 rk
  | .putMr2f rk => .putMr .f .mr2 rk
  | .putMr0b rk => .putMr .b .mr0 rk
  | .putMr1b rk => .putMr .b .mr1 rk
  | .putMr2b rk => .putMr .b .mr2 rk
  | .getMr0f rk => .getMr .f .mr0 rk
  | .getMr1f rk => .getMr .f .mr1 rk
  | .getMr2f rk => .getMr .f .mr2 rk
  | .getMr0b rk => .getMr .b .mr0 rk
  | .getMr1b rk => .getMr .b .mr1 rk
  | .getMr2b rk => .getMr .b .mr2 rk
  | .lshift rn rx ry => .shift .lshift rn rx ry
  | .orLshift rn rx ry => .shift .orLshift rn rx ry
  | .ashift rn rx ry => .shift .ashift rn rx ry
  | .orAshift rn rx ry => .shift .orAshift rn rx ry
  | .rot rn rx ry => .shift .rot rn rx ry
  | .bclr rn rx ry => .shift .bclr rn rx ry
  | .bset rn rx ry => .shift .bset rn rx ry
  | .btgl rn rx ry => .shift .btgl rn rx ry
  | .btst rx ry => .btst rx ry
  | .fdep rn rx ry => .field .fdep rn rx ry
  | .orFdep rn rx ry => .field .orFdep rn rx ry
  | .fdepSe rn rx ry => .field .fdepSe rn rx ry
  | .orFdepSe rn rx ry => .field .orFdepSe rn rx ry
  | .fext rn rx ry => .field .fext rn rx ry
  | .fextSe rn rx ry => .field .fextSe rn rx ry
  | .exp rn rx => .shift1 .exp rn rx
  | .expEx rn rx => .shift1 .expEx rn rx
  | .leftz rn rx => .shift1 .leftz rn rx
  | .lefto rn rx => .shift1 .lefto rn rx
  | .fpack rn rx => .shift1 .fpack rn rx
  | .funpack rn rx => .shift1 .funpack rn rx
  | .dualFix ra rs rx ry => .dualFix ra rs rx ry
  | .dualFlt ra rs rx ry => .dualFlt ra rs rx ry
  | .mulRnAdd rm ra mi ai => .mulAluFix .mul .add rm ra mi ai
  | .mulRnSub rm ra mi ai => .mulAluFix .mul .sub rm ra mi ai
  | .mulRnAvg rm ra mi ai => .mulAluFix .mul .avg rm ra mi ai
  | .macRnAdd rm ra mi ai => .mulAluFix .mac .add rm ra mi ai
  | .macRnSub rm ra mi ai => .mulAluFix .mac .sub rm ra mi ai
  | .macRnAvg rm ra mi ai => .mulAluFix .mac .avg rm ra mi ai
  | .msuRnAdd rm ra mi ai => .mulAluFix .msu .add rm ra mi ai
  | .msuRnSub rm ra mi ai => .mulAluFix .msu .sub rm ra mi ai
  | .msuRnAvg rm ra mi ai => .mulAluFix .msu .avg rm ra mi ai
  | .macMrfAdd ra mi ai => .macAluFix false .add ra mi ai
  | .macMrfSub ra mi ai => .macAluFix false .sub ra mi ai
  | .macMrfAvg ra mi ai => .macAluFix false .avg ra mi ai
  | .msuMrfAdd ra mi ai => .macAluFix true .add ra mi ai
  | .msuMrfSub ra mi ai => .macAluFix true .sub ra mi ai
  | .msuMrfAvg ra mi ai => .macAluFix true .avg ra mi ai
  | .fmulAdd rm ra mi ai => .mulAluFlt .add rm ra mi ai
  | .fmulSub rm ra mi ai => .mulAluFlt .sub rm ra mi ai
  | .fmulFloat rm ra mi ai => .mulAluFlt .float rm ra mi ai
  | .fmulFix rm ra mi ai => .mulAluFlt .fix rm ra mi ai
  | .fmulMax rm ra mi ai => .mulAluFlt .max rm ra mi ai
  | .fmulMin rm ra mi ai => .mulAluFlt .min rm ra mi ai
  | .fmulAbs rm ra mi xa => .mulAbsFlt rm ra mi xa
  | .mulDualFix rs rm ra mi ai => .mulDualFix rs rm ra mi ai
  | .mulDualFlt rs rm ra mi ai => .mulDualFlt rs rm ra mi ai

/-! ### Whole words -/

/-- The COND or TERM field, bits 37 to 33. -/
def condAt (w : InstrWord) : Cond :=
  Cond.ofCode (w.extractLsb' 33 5)

/-- The COMPUTE field, bits 22 to 0. -/
def computeAt (w : InstrWord) : Except DecodeError Compute :=
  decodeCompute (w.extractLsb' 0 23)

/-- Fields A, J, CI of a jump (R154). -/
def modsAt (w : InstrWord) : JumpMods :=
  ⟨flagAt w 26, flagAt w 38, flagAt w 24⟩

/-- The actions of a Type 20 word, read in the order LPU, LPO, SPU, SPO, PPU, PPO, FC (R168, R183, R338). -/
def stackActions (lpu lpo spu spo ppu ppo fc : Bool) : Except DecodeError Instr :=
  if (lpu || spu || ppu) && (lpo || spo || ppo) then .error .pushWithPop
  else if lpu then .ok (.pushLoop spu ppu fc)
  else if lpo then .ok (.popLoop spo ppo fc)
  else if spu then .ok (.pushSts ppu fc)
  else if spo then .ok (.popSts ppo fc)
  else if ppu then .ok (.pushPcstk fc)
  else if ppo then .ok (.popPcstk fc)
  else if fc then .ok .flushCache
  else .ok .stackNone

/-- Type 18 by its BOP (R166). -/
def bitOpOf (bop : BitVec 3) (reg : SReg) (data : Word) : Except DecodeError Instr :=
  match bop.toNat with
  | 0 => .ok (.bitSet reg data)
  | 1 => .ok (.bitClr reg data)
  | 2 => .ok (.bitTgl reg data)
  | 4 => .ok (.bitTst reg data)
  | 5 => .ok (.bitXor reg data)
  | _ => .error .reservedBop

/-- Type 2: the compute alone when COND is TRUE (R146). -/
def compute2 (cond : Cond) (c : Compute) : Instr :=
  if cond = .always then Instr.ofCompute c else .ifCompute cond c

/-- Types 8 and 9 choose between jump and call by B; a call ignores A and CI (R154, R155). -/
def branchOf (call : Bool) (jump callI : Instr) : Instr :=
  if call then callI else jump

/-- Words with bits 47 to 45 zero, by bits 44 to 40 (R144). -/
def decodeGroup0 (w : InstrWord) : Except DecodeError Instr :=
  match (w.extractLsb' 40 5).toNat with
  | 0 => if flagAt w 39 then .ok .idle else .ok .nop
  | 1 => do
    let c ← computeAt w
    pure (compute2 (condAt w) c)
  | 2 =>
    if flagAt w 22 then .error .reservedShiftOp
    else do
      let sh ← decodeShiftImm w
      pure (.shiftImm (condAt w) sh)
  | 4 => do
    let c ← computeAt w
    pure (.modifyReg (condAt w) c (dagAt w 38) (idxAt w 30) (idxAt w 27))
  | 6 =>
    .ok (branchOf (flagAt w 39) (.jumpAbs (condAt w) (modsAt w) (w.extractLsb' 0 24))
      (.callAbs (condAt w) (flagAt w 26) (w.extractLsb' 0 24)))
  | 7 =>
    .ok (branchOf (flagAt w 39) (.jumpRel (condAt w) (modsAt w) (w.extractLsb' 0 24))
      (.callRel (condAt w) (flagAt w 26) (w.extractLsb' 0 24)))
  | 8 => do
    let c ← computeAt w
    pure (branchOf (flagAt w 39) (.jumpInd (condAt w) (modsAt w) (flagAt w 25) (idxAt w 30) (idxAt w 27) c)
      (.callInd (condAt w) (flagAt w 26) (flagAt w 25) (idxAt w 30) (idxAt w 27) c))
  | 9 => do
    let c ← computeAt w
    pure (branchOf (flagAt w 39) (.jumpRel6 (condAt w) (modsAt w) (flagAt w 25) (w.extractLsb' 27 6) c)
      (.callRel6 (condAt w) (flagAt w 26) (flagAt w 25) (w.extractLsb' 27 6) c))
  | 10 => do
    let c ← computeAt w
    pure (.rts (condAt w) (flagAt w 26) (flagAt w 25) (flagAt w 24) c)
  | 11 => do
    let c ← computeAt w
    pure (.rti (condAt w) (flagAt w 26) (flagAt w 25) c)
  | 12 => .ok (.doCountImm (w.extractLsb' 24 16) (w.extractLsb' 0 24))
  | 13 =>
    if flagAt w 39 then .error .unallocatedType
    else do
      let u ← uregAt w 32
      pure (.doCountReg u (w.extractLsb' 0 24))
  | 14 => .ok (.doUntil (condAt w) (w.extractLsb' 0 24))
  | 15 =>
    if flagAt w 39 then .error .unallocatedType
    else do
      let u ← uregAt w 32
      pure (.loadImm u (w.extractLsb' 0 32))
  | 16 => do
    let u ← uregAt w 32
    pure (.loadDirect .dm (flagAt w 39) u (w.extractLsb' 0 32))
  | 17 => do
    let u ← uregAt w 32
    pure (.storeDirect .dm (flagAt w 39) u (w.extractLsb' 0 32))
  | 18 => do
    let u ← uregAt w 32
    pure (.loadDirect .pm (flagAt w 39) u (w.extractLsb' 0 32))
  | 19 => do
    let u ← uregAt w 32
    pure (.storeDirect .pm (flagAt w 39) u (w.extractLsb' 0 32))
  | 20 => bitOpOf (w.extractLsb' 37 3) (SReg.ofCode (w.extractLsb' 32 4)) (w.extractLsb' 0 32)
  | 22 =>
    if flagAt w 39 then .ok (.bitrev (dagAt w 38) (idxAt w 32) (w.extractLsb' 0 32))
    else .ok (.modifyImm (dagAt w 38) (idxAt w 32) (w.extractLsb' 0 32))
  | 23 =>
    stackActions (flagAt w 39) (flagAt w 38) (flagAt w 37) (flagAt w 36) (flagAt w 35) (flagAt w 34) (flagAt w 33)
  | 24 =>
    match (w.extractLsb' 24 16).toNat with
    | 0x0400 => .ok (.cjumpAbs (w.extractLsb' 0 24))
    | 0x4400 => .ok (.cjumpRel (w.extractLsb' 0 24))
    | _ => .error .reservedType25
  | 25 => if w.extractLsb' 0 40 = 0#40 then .ok .rframe else .error .reservedType25
  | _ => .error .unallocatedType

/-- The instruction a 48-bit word stands for (R144), or why it has none. -/
def decode (w : InstrWord) : Except DecodeError Instr :=
  match (w.extractLsb' 45 3).toNat with
  | 0 => decodeGroup0 w
  | 1 => do
    let c ← computeAt w
    pure (.dualMove c ⟨flagAt w 44, idxAt w 41, idxAt w 38, regAt w 33⟩ ⟨flagAt w 37, idxAt w 30, idxAt w 27, regAt w 23⟩)
  | 2 => do
    let c ← computeAt w
    let u ← uregAt w 23
    pure (.uregMove (condAt w) c (dagAt w 32) (flagAt w 44) (idxAt w 41) (idxAt w 38) (flagAt w 31) (flagAt w 30) u)
  | 3 =>
    if flagAt w 44 then
      if flagAt w 43 then do
        let c ← computeAt w
        pure (.swap (condAt w) c (regAt w 23) (regAt w 38))
      else do
        let c ← computeAt w
        let d ← uregAt w 23
        match UReg.ofCode (w.extractLsb' 38 5 ++ w.extractLsb' 31 2) with
        | some s => pure (.uregToUreg (condAt w) c d s)
        | none => .error .reservedUreg
    else do
      let c ← computeAt w
      pure (.dregMoveImm (condAt w) c (dagAt w 40) (flagAt w 38) (idxAt w 41) (w.extractLsb' 27 6) (flagAt w 39)
        (regAt w 23))
  | 4 =>
    if flagAt w 44 then
      .ok (.storeImm (dagAt w 37) (idxAt w 41) (idxAt w 38) (w.extractLsb' 0 32))
    else if flagAt w 22 then .error .reservedShiftOp
    else do
      let sh ← decodeShiftImm w
      pure (.shiftImmMove (condAt w) sh (dagAt w 32) ⟨flagAt w 31, idxAt w 41, idxAt w 38, regAt w 23⟩)
  | 5 => do
    let u ← uregAt w 32
    if flagAt w 40 then pure (.storeIndexed (dagAt w 44) (idxAt w 41) (flagAt w 39) u (w.extractLsb' 0 32))
    else pure (.loadIndexed (dagAt w 44) (idxAt w 41) (flagAt w 39) u (w.extractLsb' 0 32))
  | 6 => do
    let c ← computeAt w
    pure (.jumpIndElse (condAt w) (idxAt w 30) (idxAt w 27) c
      ⟨flagAt w 44, idxAt w 41, idxAt w 38, regAt w 23⟩)
  | _ => do
    let c ← computeAt w
    pure (.jumpRelElse (condAt w) (w.extractLsb' 27 6) c ⟨flagAt w 44, idxAt w 41, idxAt w 38, regAt w 23⟩)

/-! ### The encoder -/

/-- Bits 47 to 40 zero but for a Group II or later type number at bits 44 to 40. -/
def typeWord (t : BitVec 5) : InstrWord :=
  place 48 40 t

/-- A one-bit field. -/
def placeFlag (lo : Nat) (b : Bool) : InstrWord :=
  place 48 lo (BitVec.ofBool b)

/-- The COND field. -/
def placeCond (c : Cond) : InstrWord :=
  place 48 33 c.code

/-- The COMPUTE field. -/
def placeCompute (c : Compute) : InstrWord :=
  place 48 0 (encodeCompute c)

/-- Fields A, J and CI of a jump. -/
def placeMods (m : JumpMods) : InstrWord :=
  placeFlag 38 m.loopAbort ||| placeFlag 26 m.delayed ||| placeFlag 24 m.clearInterrupt

/-- A data register move: D at `d`, I at bits 43-41, M at 40-38, DREG at 26-23 (R151, R156). -/
def placeMove (d : Nat) (mv : DregMove) : InstrWord :=
  placeFlag d mv.store ||| place 48 41 (idxBits mv.i) ||| place 48 38 (idxBits mv.m) ||| place 48 23 (regBits mv.reg)

/-- The word that is one compute alone: Type 2 with COND = TRUE. -/
def encodeAlone (c : Compute) : InstrWord :=
  typeWord 1#5 ||| placeCond .always ||| placeCompute c

/-- The word of an instruction (R145 to R169, R175). -/
def encode : Instr → InstrWord
  | .dualMove c dm pm =>
    place 48 45 1#3 ||| placeFlag 44 dm.store ||| place 48 41 (idxBits dm.i) ||| place 48 38 (idxBits dm.m) |||
      place 48 33 (regBits dm.reg) ||| placeFlag 37 pm.store ||| place 48 30 (idxBits pm.i) |||
      place 48 27 (idxBits pm.m) ||| place 48 23 (regBits pm.reg) ||| placeCompute c
  | .ifCompute cond c => typeWord 1#5 ||| placeCond cond ||| placeCompute c
  | .uregMove cond c g post i m store long u =>
    place 48 45 2#3 ||| placeFlag 44 post ||| place 48 41 (idxBits i) ||| place 48 38 (idxBits m) ||| placeCond cond |||
      place 48 32 g.bit ||| placeFlag 31 store ||| placeFlag 30 long ||| place 48 23 u.code ||| placeCompute c
  | .dregMoveImm cond c g post i data store reg =>
    place 48 45 3#3 ||| place 48 41 (idxBits i) ||| place 48 40 g.bit ||| placeFlag 39 store ||| placeFlag 38 post |||
      placeCond cond ||| place 48 27 data ||| place 48 23 (regBits reg) ||| placeCompute c
  | .uregToUreg cond c dst src =>
    place 48 45 3#3 ||| placeFlag 44 true ||| place 48 38 (src.code.extractLsb' 2 5) ||| placeCond cond |||
      place 48 31 (src.code.extractLsb' 0 2) ||| place 48 23 dst.code ||| placeCompute c
  | .swap cond c xreg yreg =>
    place 48 45 3#3 ||| placeFlag 44 true ||| placeFlag 43 true ||| place 48 38 (regBits yreg) ||| placeCond cond |||
      place 48 23 (regBits xreg) ||| placeCompute c
  | .shiftImmMove cond sh g mv =>
    place 48 45 4#3 ||| placeMove 31 mv ||| placeCond cond ||| place 48 32 g.bit ||| encodeShiftImm sh
  | .shiftImm cond sh => typeWord 2#5 ||| placeCond cond ||| encodeShiftImm sh
  | .modifyReg cond c g i m =>
    typeWord 4#5 ||| place 48 38 g.bit ||| placeCond cond ||| place 48 30 (idxBits i) ||| place 48 27 (idxBits m) |||
      placeCompute c
  | .jumpAbs cond mods addr => typeWord 6#5 ||| placeCond cond ||| placeMods mods ||| place 48 0 addr
  | .jumpRel cond mods rel => typeWord 7#5 ||| placeCond cond ||| placeMods mods ||| place 48 0 rel
  | .callAbs cond delayed addr =>
    typeWord 6#5 ||| placeFlag 39 true ||| placeCond cond ||| placeFlag 26 delayed ||| place 48 0 addr
  | .callRel cond delayed rel =>
    typeWord 7#5 ||| placeFlag 39 true ||| placeCond cond ||| placeFlag 26 delayed ||| place 48 0 rel
  | .jumpInd cond mods else_ i m c =>
    typeWord 8#5 ||| placeCond cond ||| placeMods mods ||| placeFlag 25 else_ ||| place 48 30 (idxBits i) |||
      place 48 27 (idxBits m) ||| placeCompute c
  | .jumpRel6 cond mods else_ rel c =>
    typeWord 9#5 ||| placeCond cond ||| placeMods mods ||| placeFlag 25 else_ ||| place 48 27 rel ||| placeCompute c
  | .callInd cond delayed else_ i m c =>
    typeWord 8#5 ||| placeFlag 39 true ||| placeCond cond ||| placeFlag 26 delayed ||| placeFlag 25 else_ |||
      place 48 30 (idxBits i) ||| place 48 27 (idxBits m) ||| placeCompute c
  | .callRel6 cond delayed else_ rel c =>
    typeWord 9#5 ||| placeFlag 39 true ||| placeCond cond ||| placeFlag 26 delayed ||| placeFlag 25 else_ |||
      place 48 27 rel ||| placeCompute c
  | .jumpIndElse cond i m c mv =>
    place 48 45 6#3 ||| placeMove 44 mv ||| placeCond cond ||| place 48 30 (idxBits i) ||| place 48 27 (idxBits m) |||
      placeCompute c
  | .jumpRelElse cond rel c mv =>
    place 48 45 7#3 ||| placeMove 44 mv ||| placeCond cond ||| place 48 27 rel ||| placeCompute c
  | .rts cond delayed else_ lr c =>
    typeWord 10#5 ||| placeCond cond ||| placeFlag 26 delayed ||| placeFlag 25 else_ ||| placeFlag 24 lr |||
      placeCompute c
  | .rti cond delayed else_ c =>
    typeWord 11#5 ||| placeCond cond ||| placeFlag 26 delayed ||| placeFlag 25 else_ ||| placeCompute c
  | .doCountImm count rel => typeWord 12#5 ||| place 48 24 count ||| place 48 0 rel
  | .doCountReg u rel => typeWord 13#5 ||| place 48 32 u.code ||| place 48 0 rel
  | .doUntil term rel => typeWord 14#5 ||| placeCond term ||| place 48 0 rel
  | .storeDirect g long u addr =>
    place 48 42 4#3 ||| place 48 41 g.bit ||| placeFlag 40 true ||| placeFlag 39 long ||| place 48 32 u.code |||
      place 48 0 addr
  | .loadDirect g long u addr =>
    place 48 42 4#3 ||| place 48 41 g.bit ||| placeFlag 39 long ||| place 48 32 u.code ||| place 48 0 addr
  | .storeIndexed g i long u data =>
    place 48 45 5#3 ||| place 48 44 g.bit ||| place 48 41 (idxBits i) ||| placeFlag 40 true ||| placeFlag 39 long |||
      place 48 32 u.code ||| place 48 0 data
  | .loadIndexed g i long u data =>
    place 48 45 5#3 ||| place 48 44 g.bit ||| place 48 41 (idxBits i) ||| placeFlag 39 long |||
      place 48 32 u.code ||| place 48 0 data
  | .storeImm g i m data =>
    place 48 45 4#3 ||| placeFlag 44 true ||| place 48 41 (idxBits i) ||| place 48 38 (idxBits m) |||
      place 48 37 g.bit ||| place 48 0 data
  | .loadImm u data => typeWord 15#5 ||| place 48 32 u.code ||| place 48 0 data
  | .bitSet reg data => typeWord 20#5 ||| place 48 32 reg.code ||| place 48 0 data
  | .bitClr reg data => typeWord 20#5 ||| place 48 37 1#3 ||| place 48 32 reg.code ||| place 48 0 data
  | .bitTgl reg data => typeWord 20#5 ||| place 48 37 2#3 ||| place 48 32 reg.code ||| place 48 0 data
  | .bitTst reg data => typeWord 20#5 ||| place 48 37 4#3 ||| place 48 32 reg.code ||| place 48 0 data
  | .bitXor reg data => typeWord 20#5 ||| place 48 37 5#3 ||| place 48 32 reg.code ||| place 48 0 data
  | .modifyImm g i data => typeWord 22#5 ||| place 48 38 g.bit ||| place 48 32 (idxBits i) ||| place 48 0 data
  | .bitrev g i data =>
    typeWord 22#5 ||| placeFlag 39 true ||| place 48 38 g.bit ||| place 48 32 (idxBits i) ||| place 48 0 data
  | .pushPcstk fc => typeWord 23#5 ||| placeFlag 35 true ||| placeFlag 33 fc
  | .pushLoop spu ppu fc =>
    typeWord 23#5 ||| placeFlag 39 true ||| placeFlag 37 spu ||| placeFlag 35 ppu ||| placeFlag 33 fc
  | .pushSts ppu fc => typeWord 23#5 ||| placeFlag 37 true ||| placeFlag 35 ppu ||| placeFlag 33 fc
  | .popLoop spo ppo fc =>
    typeWord 23#5 ||| placeFlag 38 true ||| placeFlag 36 spo ||| placeFlag 34 ppo ||| placeFlag 33 fc
  | .flushCache => typeWord 23#5 ||| placeFlag 33 true
  | .popSts ppo fc => typeWord 23#5 ||| placeFlag 36 true ||| placeFlag 34 ppo ||| placeFlag 33 fc
  | .popPcstk fc => typeWord 23#5 ||| placeFlag 34 true ||| placeFlag 33 fc
  | .stackNone => typeWord 23#5
  | .nop => 0#48
  | .idle => placeFlag 39 true
  | .cjumpAbs addr => typeWord 24#5 ||| place 48 24 0x0400#16 ||| place 48 0 addr
  | .cjumpRel rel => typeWord 24#5 ||| place 48 24 0x4400#16 ||| place 48 0 rel
  | .rframe => typeWord 25#5
  | .noCompute => encodeAlone .nop
  | .addFix rn rx ry => encodeAlone (.fix2 .add rn rx ry)
  | .subFix rn rx ry => encodeAlone (.fix2 .sub rn rx ry)
  | .addCi rn rx ry => encodeAlone (.fix2 .addCi rn rx ry)
  | .subCi rn rx ry => encodeAlone (.fix2 .subCi rn rx ry)
  | .avgFix rn rx ry => encodeAlone (.fix2 .avg rn rx ry)
  | .andFix rn rx ry => encodeAlone (.fix2 .and rn rx ry)
  | .orFix rn rx ry => encodeAlone (.fix2 .or rn rx ry)
  | .xorFix rn rx ry => encodeAlone (.fix2 .xor rn rx ry)
  | .minFix rn rx ry => encodeAlone (.fix2 .min rn rx ry)
  | .maxFix rn rx ry => encodeAlone (.fix2 .max rn rx ry)
  | .clipFix rn rx ry => encodeAlone (.fix2 .clip rn rx ry)
  | .incCi rn rx => encodeAlone (.fix1 .incCi rn rx)
  | .decCi rn rx => encodeAlone (.fix1 .decCi rn rx)
  | .incFix rn rx => encodeAlone (.fix1 .inc rn rx)
  | .decFix rn rx => encodeAlone (.fix1 .dec rn rx)
  | .negFix rn rx => encodeAlone (.fix1 .neg rn rx)
  | .absFix rn rx => encodeAlone (.fix1 .abs rn rx)
  | .passFix rn rx => encodeAlone (.fix1 .pass rn rx)
  | .notFix rn rx => encodeAlone (.fix1 .not rn rx)
  | .compFix rx ry => encodeAlone (.compFix false rx ry)
  | .compuFix rx ry => encodeAlone (.compFix true rx ry)
  | .addFlt rn rx ry => encodeAlone (.flt2 .add rn rx ry)
  | .subFlt rn rx ry => encodeAlone (.flt2 .sub rn rx ry)
  | .absAddFlt rn rx ry => encodeAlone (.flt2 .absAdd rn rx ry)
  | .absSubFlt rn rx ry => encodeAlone (.flt2 .absSub rn rx ry)
  | .avgFlt rn rx ry => encodeAlone (.flt2 .avg rn rx ry)
  | .scalb rn rx ry => encodeAlone (.flt2 .scalb rn rx ry)
  | .fixBy rn rx ry => encodeAlone (.flt2 .fixBy rn rx ry)
  | .truncBy rn rx ry => encodeAlone (.flt2 .truncBy rn rx ry)
  | .floatBy rn rx ry => encodeAlone (.flt2 .floatBy rn rx ry)
  | .copysign rn rx ry => encodeAlone (.flt2 .copysign rn rx ry)
  | .minFlt rn rx ry => encodeAlone (.flt2 .min rn rx ry)
  | .maxFlt rn rx ry => encodeAlone (.flt2 .max rn rx ry)
  | .clipFlt rn rx ry => encodeAlone (.flt2 .clip rn rx ry)
  | .negFlt rn rx => encodeAlone (.flt1 .neg rn rx)
  | .absFlt rn rx => encodeAlone (.flt1 .abs rn rx)
  | .passFlt rn rx => encodeAlone (.flt1 .pass rn rx)
  | .rndFlt rn rx => encodeAlone (.flt1 .rnd rn rx)
  | .mant rn rx => encodeAlone (.flt1 .mant rn rx)
  | .logb rn rx => encodeAlone (.flt1 .logb rn rx)
  | .fix rn rx => encodeAlone (.flt1 .fix rn rx)
  | .trunc rn rx => encodeAlone (.flt1 .trunc rn rx)
  | .float rn rx => encodeAlone (.flt1 .float rn rx)
  | .recips rn rx => encodeAlone (.flt1 .recips rn rx)
  | .rsqrts rn rx => encodeAlone (.flt1 .rsqrts rn rx)
  | .compFlt rx ry => encodeAlone (.compFlt rx ry)
  | .mulRn m rn rx ry => encodeAlone (.mulRn m rn rx ry)
  | .mulMrf m rx ry => encodeAlone (.mulMr .f m rx ry)
  | .mulMrb m rx ry => encodeAlone (.mulMr .b m rx ry)
  | .macRnMrf m rn rx ry => encodeAlone (.macRn false .f m rn rx ry)
  | .macRnMrb m rn rx ry => encodeAlone (.macRn false .b m rn rx ry)
  | .msuRnMrf m rn rx ry => encodeAlone (.macRn true .f m rn rx ry)
  | .msuRnMrb m rn rx ry => encodeAlone (.macRn true .b m rn rx ry)
  | .macMrf m rx ry => encodeAlone (.macMr false .f m rx ry)
  | .macMrb m rx ry => encodeAlone (.macMr false .b m rx ry)
  | .msuMrf m rx ry => encodeAlone (.macMr true .f m rx ry)
  | .msuMrb m rx ry => encodeAlone (.macMr true .b m rx ry)
  | .satRnMrf m rn => encodeAlone (.satRn .f m rn)
  | .satRnMrb m rn => encodeAlone (.satRn .b m rn)
  | .satMrf m => encodeAlone (.satMr .f m)
  | .satMrb m => encodeAlone (.satMr .b m)
  | .rndRnMrf sg rn => encodeAlone (.rndRn .f sg rn)
  | .rndRnMrb sg rn => encodeAlone (.rndRn .b sg rn)
  | .rndMrf sg => encodeAlone (.rndMr .f sg)
  | .rndMrb sg => encodeAlone (.rndMr .b sg)
  | .clrMrf => encodeAlone (.clrMr .f)
  | .clrMrb => encodeAlone (.clrMr .b)
  | .mulFlt rn rx ry => encodeAlone (.mulFlt rn rx ry)
  | .putMr0f rk => encodeAlone (.putMr .f .mr0 rk)
  | .putMr1f rk => encodeAlone (.putMr .f .mr1 rk)
  | .putMr2f rk => encodeAlone (.putMr .f .mr2 rk)
  | .putMr0b rk => encodeAlone (.putMr .b .mr0 rk)
  | .putMr1b rk => encodeAlone (.putMr .b .mr1 rk)
  | .putMr2b rk => encodeAlone (.putMr .b .mr2 rk)
  | .getMr0f rk => encodeAlone (.getMr .f .mr0 rk)
  | .getMr1f rk => encodeAlone (.getMr .f .mr1 rk)
  | .getMr2f rk => encodeAlone (.getMr .f .mr2 rk)
  | .getMr0b rk => encodeAlone (.getMr .b .mr0 rk)
  | .getMr1b rk => encodeAlone (.getMr .b .mr1 rk)
  | .getMr2b rk => encodeAlone (.getMr .b .mr2 rk)
  | .lshift rn rx ry => encodeAlone (.shift .lshift rn rx ry)
  | .orLshift rn rx ry => encodeAlone (.shift .orLshift rn rx ry)
  | .ashift rn rx ry => encodeAlone (.shift .ashift rn rx ry)
  | .orAshift rn rx ry => encodeAlone (.shift .orAshift rn rx ry)
  | .rot rn rx ry => encodeAlone (.shift .rot rn rx ry)
  | .bclr rn rx ry => encodeAlone (.shift .bclr rn rx ry)
  | .bset rn rx ry => encodeAlone (.shift .bset rn rx ry)
  | .btgl rn rx ry => encodeAlone (.shift .btgl rn rx ry)
  | .btst rx ry => encodeAlone (.btst rx ry)
  | .fdep rn rx ry => encodeAlone (.field .fdep rn rx ry)
  | .orFdep rn rx ry => encodeAlone (.field .orFdep rn rx ry)
  | .fdepSe rn rx ry => encodeAlone (.field .fdepSe rn rx ry)
  | .orFdepSe rn rx ry => encodeAlone (.field .orFdepSe rn rx ry)
  | .fext rn rx ry => encodeAlone (.field .fext rn rx ry)
  | .fextSe rn rx ry => encodeAlone (.field .fextSe rn rx ry)
  | .exp rn rx => encodeAlone (.shift1 .exp rn rx)
  | .expEx rn rx => encodeAlone (.shift1 .expEx rn rx)
  | .leftz rn rx => encodeAlone (.shift1 .leftz rn rx)
  | .lefto rn rx => encodeAlone (.shift1 .lefto rn rx)
  | .fpack rn rx => encodeAlone (.shift1 .fpack rn rx)
  | .funpack rn rx => encodeAlone (.shift1 .funpack rn rx)
  | .dualFix ra rs rx ry => encodeAlone (.dualFix ra rs rx ry)
  | .dualFlt ra rs rx ry => encodeAlone (.dualFlt ra rs rx ry)
  | .mulRnAdd rm ra mi ai => encodeAlone (.mulAluFix .mul .add rm ra mi ai)
  | .mulRnSub rm ra mi ai => encodeAlone (.mulAluFix .mul .sub rm ra mi ai)
  | .mulRnAvg rm ra mi ai => encodeAlone (.mulAluFix .mul .avg rm ra mi ai)
  | .macRnAdd rm ra mi ai => encodeAlone (.mulAluFix .mac .add rm ra mi ai)
  | .macRnSub rm ra mi ai => encodeAlone (.mulAluFix .mac .sub rm ra mi ai)
  | .macRnAvg rm ra mi ai => encodeAlone (.mulAluFix .mac .avg rm ra mi ai)
  | .msuRnAdd rm ra mi ai => encodeAlone (.mulAluFix .msu .add rm ra mi ai)
  | .msuRnSub rm ra mi ai => encodeAlone (.mulAluFix .msu .sub rm ra mi ai)
  | .msuRnAvg rm ra mi ai => encodeAlone (.mulAluFix .msu .avg rm ra mi ai)
  | .macMrfAdd ra mi ai => encodeAlone (.macAluFix false .add ra mi ai)
  | .macMrfSub ra mi ai => encodeAlone (.macAluFix false .sub ra mi ai)
  | .macMrfAvg ra mi ai => encodeAlone (.macAluFix false .avg ra mi ai)
  | .msuMrfAdd ra mi ai => encodeAlone (.macAluFix true .add ra mi ai)
  | .msuMrfSub ra mi ai => encodeAlone (.macAluFix true .sub ra mi ai)
  | .msuMrfAvg ra mi ai => encodeAlone (.macAluFix true .avg ra mi ai)
  | .fmulAdd rm ra mi ai => encodeAlone (.mulAluFlt .add rm ra mi ai)
  | .fmulSub rm ra mi ai => encodeAlone (.mulAluFlt .sub rm ra mi ai)
  | .fmulFloat rm ra mi ai => encodeAlone (.mulAluFlt .float rm ra mi ai)
  | .fmulFix rm ra mi ai => encodeAlone (.mulAluFlt .fix rm ra mi ai)
  | .fmulMax rm ra mi ai => encodeAlone (.mulAluFlt .max rm ra mi ai)
  | .fmulMin rm ra mi ai => encodeAlone (.mulAluFlt .min rm ra mi ai)
  | .fmulAbs rm ra mi xa => encodeAlone (.mulAbsFlt rm ra mi xa)
  | .mulDualFix rs rm ra mi ai => encodeAlone (.mulDualFix rs rm ra mi ai)
  | .mulDualFlt rs rm ra mi ai => encodeAlone (.mulDualFlt rs rm ra mi ai)

/-! ### The host's words -/

/-- The 48-bit word of an opcode-table row: the row's own word, or for a compute row (nbits at most 24) the word that
is this compute alone, Type 2 with COND = TRUE (log entry 42). -/
def tableWord (nbits w : Nat) : InstrWord :=
  if nbits ≤ 24 then encodeAloneWord (BitVec.ofNat 23 w) else BitVec.ofNat 48 w
where
  /-- The Type 2 word with COND = TRUE around a compute field. -/
  encodeAloneWord (c : ComputeWord) : InstrWord :=
    typeWord 1#5 ||| placeCond .always ||| place 48 0 c

/-- The instruction the decoder reads from an opcode-table row's bits. -/
def decodeTableWord (nbits w : Nat) : Option Instr :=
  (decode (tableWord nbits w)).toOption

end Sys2Proof
end

