-- ==== Sys2Proof/Machine/State.lean ====
section
/-! DEFINITION. The machine's state as plain data (10_state.md; INVENTORY.md, State), the reasons a step can stop, and
the state after reset. -/

namespace Sys2Proof.Machine

/-- The sequencer's hardware stacks (10_state.md R41 to R45). -/
inductive StackName
  | pc | loop | status
  deriving DecidableEq, Repr

/-- The faults: what 93_implementation_defined.md U6 calls `fault`. -/
inductive Fault
  /-- A push on a full stack, by an instruction or by interrupt entry (R264, R562). Safe: the model stops where the
  part goes on. -/
  | stackOverflow (which : StackName)
  /-- A pop of an empty stack (R264). Safe: the model stops where the part goes on. -/
  | stackUnderflow (which : StackName)
  deriving DecidableEq, Repr

/-- The refusals: what 93_implementation_defined.md calls `refuse`. Each is safe: the spec gives the machine no
transition there, and the model claims none. -/
inductive Refusal
  /-- An arm of `exec` without a meaning yet. Raised by no meaning. -/
  | notModelled (mnemonic : String)
  /-- The fetched word has no meaning (U1, U7). Raised by fetching. -/
  | undecodable (why : DecodeError)
  /-- An access or fetch where the memory map has nothing (U3). Raised by every access. -/
  | unmapped (addr : Word)
  /-- A data access to a cell of another width than the spec converts, or a fetch from a cell of less than 48 bits
  (R103, R104, D7). Raised by every access. -/
  | cellWidth (addr : Word)
  /-- Two writes of one instruction to one register or cell (U4). Raised when the writes are made. -/
  | doubleWrite
  /-- A Type 3 or 15 move of a register of the DAG that forms the address (U5). -/
  | sameDag
  /-- A write to PC, FADDR or DADDR (U8). -/
  | readOnlyRegister
  /-- A long word access with no model of it, or of a register that has no neighbour (U12). -/
  | longWord
  /-- A move of PX where the spec gives none (U13). -/
  | pxMove
  /-- A fetch from an address stored to since the last FLUSH CACHE (U14). Raised by fetching. -/
  | staleFetch
  /-- Reading or writing the top of an empty stack through its register, the condition NOT LCE with no loop, or writing
  PCSTKP (U19). -/
  | emptyStackRegister
  /-- A Type 3 move of a register without a complement when the elements' conditions differ (U20). -/
  | conditionsDiffer
  /-- An instruction that may not stand in a delay slot (U21). Raised by the step. -/
  | delaySlot
  /-- A program whose loop end the real part could see differently (U22). Raised by the step and by DO UNTIL. -/
  | loopEnd
  /-- RTS without (LR) into the end of a loop (U23). -/
  | loopReentry
  /-- A write of IMASK while an interrupt is in service (U25). -/
  | imaskInService
  /-- The instruction after a MODE1 change that depends on a changed bit (U26). Raised by the step. -/
  | modeJustChanged
  /-- A write that sets one of MODE1 bits 0 to 7 or 10 (U27). -/
  | alternateMode
  deriving DecidableEq, Repr

/-- One processing element's registers (10_state.md R30, R35, R51, R54). -/
structure Pe where
  /-- R0 to R15, or S0 to S15. -/
  rf : Vector DataWord 16
  /-- MRF. -/
  mrf : ResultWord
  /-- MRB. -/
  mrb : ResultWord
  /-- ASTATx or ASTATy. -/
  astat : Word
  /-- STKYx or STKYy; in STKYx bits 21 to 26 are not stored here, they are computed from the stacks. -/
  stky : Word
  /-- The flag AU, which has no ASTAT bit (R52). -/
  au : Bool
  deriving DecidableEq, Repr

/-- The model's own: what pushed an entry of the PC stack (log entry 29). -/
inductive PcSource where
  /-- A call or an interrupt, which pushed a return address. -/
  | call
  /-- PUSH PCSTK. -/
  | software
  /-- The DO that ran at that `clock`, which pushed its loop's start address. -/
  | loop (clock : Nat)
  deriving DecidableEq, Repr

/-- An entry of the PC stack (10_state.md R41). -/
structure PcEntry where
  addr : ProgAddr
  /-- The model's own: what pushed it (log entry 29). -/
  source : PcSource
  deriving DecidableEq, Repr

/-- The model's own: the DO that made a loop, by the `clock` of its step, and the first address of the body it gave the
loop, the address after it (41_program_flow.md R280; log entry 29). -/
structure LoopSetUp where
  clock : Nat
  first : ProgAddr
  deriving DecidableEq, Repr

/-- An entry of the loop address and loop counter stacks (10_state.md R43, R44). -/
structure LoopEntry where
  /-- LADDR: end address in bits 23-0, termination code in bits 28-24, kind in bits 31-29 (log entry 18). -/
  laddr : Word
  /-- CURLCNTR. -/
  count : Word
  /-- The model's own: the DO that made the entry, none for PUSH LOOP (log entry 29). -/
  made : Option LoopSetUp
  deriving DecidableEq, Repr

/-- An entry of the status stack (10_state.md R45). -/
structure StatusEntry where
  mode1 : Word
  astatx : Word
  astaty : Word
  deriving DecidableEq, Repr

/-- The pending delayed branch `dbr` (41_program_flow.md R260), and whether its transfer pops a loop (R265). -/
structure DelayedBranch where
  target : ProgAddr
  left : Nat
  loopAbort : Bool
  deriving DecidableEq, Repr

/-- A branch request of the instruction being executed (41_program_flow.md R260). -/
structure BranchRequest where
  target : ProgAddr
  delayed : Bool
  loopAbort : Bool
  deriving DecidableEq, Repr

/-- What a condition looks at: MODE1, FLAGS, both ASTATs, and the clock the pins are drawn by. -/
structure FlagView where
  mode1 : Word
  flags : Word
  astatx : Word
  astaty : Word
  clock : Nat
  deriving DecidableEq, Repr

/-- The contents of memory, by `8 * address + lane` (log entries 3 and 4). -/
abbrev Memory := List Host.Cell

/-- The machine (INVENTORY.md, State). -/
structure State where
  /-- The OPEN parameters (00_scope.md R7). No step writes them. -/
  params : Params
  /-- PEx. -/
  x : Pe
  /-- PEy. -/
  y : Pe
  /-- I0 to I15 (R36). -/
  i : Vector Word 16
  /-- M0 to M15 (R36). -/
  m : Vector Word 16
  /-- L0 to L15 (R36, R37). -/
  l : Vector Word 16
  /-- B0 to B15 (R36, R37). -/
  b : Vector Word 16
  /-- PX1 (R38). -/
  px1 : Word
  /-- PX2 (R38). -/
  px2 : Word
  /-- USTAT1 to USTAT4 (R39). -/
  ustat1 : Word
  ustat2 : Word
  ustat3 : Word
  ustat4 : Word
  /-- PC (R40). -/
  pc : ProgAddr
  /-- The PC stack, top first (R41). -/
  pcStack : List PcEntry
  /-- The loop address and counter stacks, top first (R43, R44). -/
  loops : List LoopEntry
  /-- The status stack, top first (R45). -/
  sts : List StatusEntry
  /-- LCNTR (R44). -/
  lcntr : Word
  /-- MODE1 (R53). -/
  mode1 : Word
  /-- MMASK (R57). -/
  mmask : Word
  /-- MODE2 (R55). -/
  mode2 : Word
  /-- FLAGS (R58). -/
  flags : Word
  /-- IRPTL (R56). -/
  irptl : Word
  /-- The model's own: the bits of IRPTL that agents outside the core have set (R554, R567, log entry 24). -/
  hostIrq : Word
  /-- IMASK (R56). -/
  imask : Word
  /-- IMASKP (R56). -/
  imaskp : Word
  /-- LIRPTL (R59). -/
  lirptl : Word
  /-- TPERIOD and TCOUNT (R48). -/
  tperiod : Word
  tcount : Word
  /-- The pending delayed branch (R60, R260). -/
  dbr : Option DelayedBranch
  /-- The idle state (R60, R346). -/
  idle : Bool
  /-- Addresses stored to since the last FLUSH CACHE, rising (R127). -/
  stale : List Word
  /-- Memory (R100). -/
  mem : Memory
  /-- The model's own: the branch the executing instruction asks for; none between steps (log entry 41). -/
  request : Option BranchRequest
  /-- The model's own: the MODE1 bits the last step changed (log entry 31). -/
  mode1Changed : Word
  /-- The model's own: the flags after the last two steps, latest first (log entry 29). -/
  history : List FlagView
  /-- The model's own: the last step went on at the next address (log entry 16). -/
  straight : Bool
  /-- The model's own: sampling points a qualifying interrupt was let pass (log entry 24). -/
  irqWait : Nat
  /-- The model's own: the counter the free values are drawn by (log entry 11). -/
  clock : Nat
  deriving DecidableEq, Repr

/-- An element with every register 0 (log entries 5 and 6). -/
def Pe.reset : Pe :=
  { rf := Vector.replicate 16 0#40, mrf := 0#80, mrb := 0#80, astat := 0#32, stky := 0#32, au := false }

/-- The suggested parameters (log entries 1, 2, 12, 20, 21, 24, 25): instruction memory of 48-bit cells at 0x40000 to
0x4FFFF and 32-bit cells elsewhere; stack depths 30, 6, 15; the interrupt table of 60_exceptions.md R553, with CB7I and
CB15I, bits 20 and 21, as inputs of the host (R567). -/
def defaultParams : Params :=
  { map := [⟨0x40000, 0x10000, .word48⟩, ⟨0, 0x100000000, .word32⟩]
    pcDepth := 30
    loopDepth := 6
    stsDepth := 15
    irq :=
      { base := 0x040000#24, pushesStatus := 0x004001F0#32, mmaskApplies := true, maxLatency := 0,
        external := 0x00300000#32, arithmetic := true }
    longWord := .neighbourPair
    px := .highAligned
    timer := .host }

/-- The machine right after reset (10_state.md R61; 70_reset_and_hazards.md R591 to R593; log entries 5 to 8). -/
def State.reset : State :=
  { params := defaultParams
    x := Pe.reset
    y := Pe.reset
    i := Vector.replicate 16 0#32
    m := Vector.replicate 16 0#32
    l := Vector.replicate 16 0#32
    b := Vector.replicate 16 0#32
    px1 := 0#32
    px2 := 0#32
    ustat1 := 0#32
    ustat2 := 0#32
    ustat3 := 0#32
    ustat4 := 0#32
    pc := 0x040004#24
    pcStack := []
    loops := []
    sts := []
    lcntr := 0#32
    mode1 := 0#32
    mmask := 0#32
    mode2 := 0#32
    flags := 0#32
    irptl := 0#32
    hostIrq := 0#32
    imask := 0x00000003#32
    imaskp := 0#32
    lirptl := 0#32
    tperiod := 0#32
    tcount := 0#32
    dbr := none
    idle := false
    stale := []
    mem := []
    request := none
    mode1Changed := 0#32
    history := []
    straight := false
    irqWait := 0
    clock := 0 }

end Sys2Proof.Machine
end

