-- ==== Sys2Proof/Machine/Flags.lean ====
section
/-! DEFINITION. The bits of MODE1 and ASTAT (10_state.md R52, R53), how an operation's flags enter ASTAT and STKY
(R51, R54), and the conditions (30_encoding.md R170 to R174). -/

namespace Sys2Proof.Machine

/-! ### Bits -/

/-- Bit `k` of a register set to `v`. -/
def setBit (w : Word) (k : Nat) (v : Bool) : Word :=
  if v then w ||| (1#32 <<< k) else w &&& ~~~(1#32 <<< k)

/-- MODE1.NESTM (R53). -/
def nestm (mode1 : Word) : Bool := mode1.getLsbD 11

/-- MODE1.IRPTEN (R53). -/
def irpten (mode1 : Word) : Bool := mode1.getLsbD 12

/-- MODE1.ALUSAT (R53). -/
def alusat (mode1 : Word) : Bool := mode1.getLsbD 13

/-- MODE1.TRUNC (R53). -/
def truncMode (mode1 : Word) : Bool := mode1.getLsbD 15

/-- MODE1.RND32 (R53). -/
def rnd32 (mode1 : Word) : Bool := mode1.getLsbD 16

/-- MODE1.PEYEN: SIMD mode (R53). -/
def peyen (mode1 : Word) : Bool := mode1.getLsbD 21

/-- MODE1.BDCST9 (R53). -/
def bdcst9 (mode1 : Word) : Bool := mode1.getLsbD 22

/-- MODE1.BDCST1 (R53). -/
def bdcst1 (mode1 : Word) : Bool := mode1.getLsbD 23

/-- MODE1.CBUFEN (R53). -/
def cbufen (mode1 : Word) : Bool := mode1.getLsbD 24

/-- MODE1 bits 0 to 7 and 10, which must stay 0 (R53, U27). -/
def alternateBits : Word := 0x000004FF#32

/-- MODE2.TIMEN (R55). -/
def timen (mode2 : Word) : Bool := mode2.getLsbD 5

/-- ASTAT.AZ (R52). -/
def azOf (astat : Word) : Bool := astat.getLsbD 0

/-- ASTAT.AV (R52). -/
def avOf (astat : Word) : Bool := astat.getLsbD 1

/-- ASTAT.AN (R52). -/
def anOf (astat : Word) : Bool := astat.getLsbD 2

/-- ASTAT.AC (R52). -/
def acOf (astat : Word) : Bool := astat.getLsbD 3

/-- ASTAT.MN (R52). -/
def mnOf (astat : Word) : Bool := astat.getLsbD 6

/-- ASTAT.MV (R52). -/
def mvOf (astat : Word) : Bool := astat.getLsbD 7

/-- ASTAT.MI (R52). -/
def miOf (astat : Word) : Bool := astat.getLsbD 9

/-- ASTAT.AF (R52). -/
def afOf (astat : Word) : Bool := astat.getLsbD 10

/-- ASTAT.SV (R52). -/
def svOf (astat : Word) : Bool := astat.getLsbD 11

/-- ASTAT.SZ (R52). -/
def szOf (astat : Word) : Bool := astat.getLsbD 12

/-- ASTAT.BTF (R52). -/
def btfOf (astat : Word) : Bool := astat.getLsbD 18

/-- ASTAT with BTF set to `v` (R334). -/
def withBtf (astat : Word) (v : Bool) : Word := setBit astat 18 v

/-! ### Flags of the units -/

/-- The flags every ALU operation writes (R51), with AU and AF. -/
structure AluFlags where
  az : Bool
  au : Bool
  an : Bool
  av : Bool
  ac : Bool
  as : Bool
  ai : Bool
  af : Bool
  /-- The operation is a floating-point one: which sticky bit AV sets (R360, R403). AF says the same, but where it is a
  free value (log entry 35). -/
  floating : Bool := af
  deriving DecidableEq, Repr

/-- The flags every multiplier operation writes (R51); `floating` says which sticky bit MV sets (R54, R450). -/
structure MulFlags where
  mn : Bool
  mv : Bool
  mu : Bool
  mi : Bool
  floating : Bool
  deriving DecidableEq, Repr

/-- The flags every shifter operation writes (R51, R490). -/
structure ShiftFlags where
  sz : Bool
  sv : Bool
  ss : Bool
  deriving DecidableEq, Repr

/-- ASTAT after the ALU flags (R52); AU has no bit there. -/
def AluFlags.into (f : AluFlags) (w : Word) : Word :=
  setBit (setBit (setBit (setBit (setBit (setBit (setBit w 0 f.az) 1 f.av) 2 f.an) 3 f.ac) 4 f.as) 5 f.ai) 10 f.af

/-- ASTAT after the multiplier flags (R52). -/
def MulFlags.into (f : MulFlags) (w : Word) : Word :=
  setBit (setBit (setBit (setBit w 6 f.mn) 7 f.mv) 8 f.mu) 9 f.mi

/-- ASTAT after the shifter flags (R52). -/
def ShiftFlags.into (f : ShiftFlags) (w : Word) : Word :=
  setBit (setBit (setBit w 11 f.sv) 12 f.sz) 13 f.ss

/-- The compare accumulation: bits 31 to 24 shift right and the new result enters at bit 31 (44_alu_fixed.md R366). -/
def accumulateCompare (gt : Bool) (w : Word) : Word :=
  BitVec.ofBool gt ++ (w.extractLsb' 25 7 ++ w.extractLsb' 0 24)

/-- One bit as a word. -/
def bitWord (k : Nat) (v : Bool) : Word :=
  if v then 1#32 <<< k else 0#32

/-- The sticky bits ALU flags set: AUS, AVS or AOS, AIS (R54, R360, R403). -/
def AluFlags.sticky (f : AluFlags) : Word :=
  bitWord 0 f.au ||| bitWord 1 (f.av && f.floating) ||| bitWord 2 (f.av && !f.floating) ||| bitWord 5 f.ai

/-- The sticky bits multiplier flags set: MOS or MVS by the kind of the operation, MUS by either kind, for R54 has one
sticky MU and R450 does not say otherwise, and MIS (R54, R450, R454; log entry 19). -/
def MulFlags.sticky (f : MulFlags) : Word :=
  bitWord 6 (f.mv && !f.floating) ||| bitWord 7 (f.mv && f.floating) ||| bitWord 8 f.mu |||
    bitWord 9 (f.mi && f.floating)

/-! ### Conditions -/

/-- The ASTAT of an element. -/
def FlagView.astat (v : FlagView) (e : Element) : Word :=
  match e with
  | .x => v.astatx
  | .y => v.astaty

/-- The part of LT and LE that does not look at AZ (30_encoding.md R172): after a fixed-point operation AN differs
from an overflow that was not saturated. -/
def fixNegative (v : FlagView) (e : Element) : Bool :=
  let a := v.astat e
  !afOf a && (anOf a != (avOf a && !alusat v.mode1))

/-- LT (30_encoding.md R172). -/
def ltCore (v : FlagView) (e : Element) : Bool :=
  let a := v.astat e
  fixNegative v e || (afOf a && anOf a && !azOf a)

/-- LE (30_encoding.md R172). -/
def leCore (v : FlagView) (e : Element) : Bool :=
  let a := v.astat e
  fixNegative v e || (afOf a && anOf a) || azOf a

/-- FIn: the FLAGS bit of an output pin, the environment's value of an input pin (10_state.md R58, log entry 23). -/
def flagIn (v : FlagView) (n : Fin 4) : Bool :=
  if v.flags.getLsbD (16 + n.val) then v.flags.getLsbD n.val else Config.freeBit (.flagPin n) v.clock

/-- The bus master condition (decision D41, log entry 23). -/
def busMaster (v : FlagView) : Bool :=
  Config.freeBit .busMaster v.clock

/-- The truth of a condition on an element as an IF reads it (30_encoding.md R170). `counterRuns` is
`CURLCNTR ≠ 1` (R174). -/
def condHolds (c : Cond) (v : FlagView) (counterRuns : Bool) (e : Element) : Bool :=
  let a := v.astat e
  match c with
  | .eq => azOf a
  | .lt => ltCore v e
  | .le => leCore v e
  | .ac => acOf a
  | .av => avOf a
  | .mv => mvOf a
  | .ms => mnOf a
  | .sv => svOf a
  | .sz => szOf a
  | .flag n => flagIn v n
  | .tf => btfOf a
  | .bm => busMaster v
  | .lce => counterRuns
  | .ne => !azOf a
  | .ge => !ltCore v e
  | .gt => !leCore v e
  | .notAc => !acOf a
  | .notAv => !avOf a
  | .notMv => !mvOf a
  | .notMs => !mnOf a
  | .notSv => !svOf a
  | .notSz => !szOf a
  | .notFlag n => !flagIn v n
  | .notTf => !btfOf a
  | .notBm => !busMaster v
  | .always => true

/-- What the conditions look at in a state. -/
def State.view (s : State) : FlagView :=
  { mode1 := s.mode1, flags := s.flags, astatx := s.x.astat, astaty := s.y.astat, clock := s.clock }

/-- A termination condition other than LCE and FOREVER: true in PEx, and in SIMD mode in PEy too
(41_program_flow.md R282, R283). -/
def termHolds (c : Cond) (v : FlagView) : Bool :=
  condHolds c v false .x && (!peyen v.mode1 || condHolds c v false .y)

/-- The condition looks at an element's flags, not at the pins, the bus, the counter or nothing
(30_encoding.md R173). -/
def perElement : Cond → Bool
  | .eq | .lt | .le | .ac | .av | .mv | .ms | .sv | .sz | .tf => true
  | .ne | .ge | .gt | .notAc | .notAv | .notMv | .notMs | .notSv | .notSz | .notTf => true
  | .flag _ | .bm | .lce | .notFlag _ | .notBm | .always => false

/-- The condition reads ALUSAT (30_encoding.md R172). -/
def readsAlusat : Cond → Bool
  | .lt | .le | .ge | .gt => true
  | .eq | .ac | .av | .mv | .ms | .sv | .sz | .flag _ | .tf | .bm | .lce | .ne | .notAc | .notAv | .notMv | .notMs
  | .notSv | .notSz | .notFlag _ | .notTf | .notBm | .always => false

end Sys2Proof.Machine
end

