-- ==== Sys2Proof/Machine/Float.lean ====
section
/-! DEFINITION. The 40-bit floating-point format and its common arithmetic (45_alu_float.md R400 to R404): exact
integers, narrowed once by `fround`. -/

namespace Sys2Proof.Machine

/-! ### The result of an ALU operation -/

/-- What the ALU puts out: a 40-bit result and its flags. -/
structure AluOut where
  value : DataWord
  flags : AluFlags
  deriving DecidableEq, Repr

/-- What an operation reads beside its operands: MODE1, the element, and the clock its free values are drawn by. -/
structure Env where
  mode1 : Word
  e : Element
  clock : Nat
  deriving DecidableEq, Repr

/-! ### Format (R400, R402) -/

/-- The classes of a 40-bit operand; a denormal is a Zero (R400). -/
inductive FloatClass
  | nan | inf | zero | normal
  deriving DecidableEq, Repr

/-- The sign bit. -/
def fsign (v : DataWord) : Bool := v.getLsbD 39

/-- The biased exponent E. -/
def fexp (v : DataWord) : Nat := (v.extractLsb' 31 8).toNat

/-- The 31-bit fraction f. -/
def ffrac (v : DataWord) : Nat := (v.extractLsb' 0 31).toNat

/-- The class of an operand (R400). -/
def fclass (v : DataWord) : FloatClass :=
  if fexp v = 255 then (if ffrac v = 0 then .inf else .nan)
  else if fexp v = 0 then .zero
  else .normal

/-- A 40-bit pattern from its fields (R400). -/
def fpack40 (s : Bool) (e : Nat) (f : Nat) : DataWord :=
  BitVec.ofBool s ++ (BitVec.ofNat 8 e ++ BitVec.ofNat 31 f)

/-- NAN1, all ones (R402). -/
def nan1 : DataWord := 0xFFFFFFFFFF#40

/-- Inf of a sign (R402). -/
def finf (s : Bool) : DataWord := fpack40 s 255 0

/-- Zero of a sign (R402). -/
def fzero (s : Bool) : DataWord := fpack40 s 0 0

/-- The fraction width of the rounding boundary, `p` (R401). -/
def fracBits (mode1 : Word) : Nat := if rnd32 mode1 then 23 else 31

/-- NORM.MAX of a sign at a boundary of `p` fraction bits (R401). -/
def normMax (s : Bool) (p : Nat) : DataWord := fpack40 s 254 ((2 ^ p - 1) * 2 ^ (31 - p))

/-- The operand with a denormal flushed to the Zero of its sign (R400). -/
def flush (v : DataWord) : DataWord := if fclass v = .zero then fzero (fsign v) else v

/-- The significand of an operand as an integer: the value of a Normal is `fsig v * 2 ^ (E - 158)`, and a Zero
counts 0 (R400). -/
def fsig (v : DataWord) : Nat := if fclass v = .normal then 2 ^ 31 + ffrac v else 0

/-- The power of two of the significand's unit. -/
def funit (v : DataWord) : Int := (fexp v : Int) - 158

/-! ### Rounding (R401) -/

/-- How a result that is not representable is narrowed. -/
inductive Rounding
  | nearest | floor | zero
  deriving DecidableEq, Repr

/-- `m / 2 ^ d` rounded to nearest, a tie to the even integer. -/
def roundNearest (m d : Nat) : Nat :=
  let q := m / 2 ^ d
  let r := m % 2 ^ d
  if 2 * r > 2 ^ d ∨ (2 * r = 2 ^ d ∧ q % 2 = 1) then q + 1 else q

/-- What `fround` answers: the value, and whether it overflowed or was flushed. -/
structure Rounded where
  value : DataWord
  overflow : Bool
  underflow : Bool
  deriving DecidableEq, Repr

/-- An overflow: Inf when rounding to nearest, NORM.MAX when truncating (R401). -/
def foverflow (mode1 : Word) (s : Bool) (p : Nat) : DataWord :=
  if truncMode mode1 then normMax s p else finf s

/-- `fround (s, sig * 2 ^ unit, p)` for a nonzero `sig` (R401). With `k = log2 sig`, the exponent is `e = k + unit` and
`q = sig * 2 ^ (p - k)`, so the power of two never has to be written out. -/
def fround (mode1 : Word) (s : Bool) (sig : Nat) (unit : Int) (p : Nat) : Rounded :=
  let k := Nat.log2 sig
  let q := if k ≤ p then sig * 2 ^ (p - k)
    else if truncMode mode1 then sig / 2 ^ (k - p) else roundNearest sig (k - p)
  let carried := decide (q = 2 ^ (p + 1))
  let n := if carried then 2 ^ p else q
  let e : Int := (k : Int) + unit + (if carried then 1 else 0)
  if e > 127 then ⟨foverflow mode1 s p, true, false⟩
  else if e < -126 then ⟨fzero s, false, true⟩
  else ⟨fpack40 s (e + 127).toNat ((n - 2 ^ p) * 2 ^ (31 - p)), false, false⟩

/-! ### Flags -/

/-- The flags of a floating-point result that is not NAN1 and has no special row: AZ of a Zero, AN the sign bit
(R403). -/
def fltFlags (v : DataWord) : AluFlags :=
  { az := decide (fclass v = .zero), au := false, an := fsign v, av := false, ac := false, as := false, ai := false,
    af := true }

/-- A result with the plain flags of R403. -/
def fltOut (v : DataWord) : AluOut := ⟨v, fltFlags v⟩

/-- The free AN of a result that is NAN1 (R403, U15, log entry 34). -/
def nanSign (env : Env) : Bool := Config.freeBit (.aluAn env.e) env.clock

/-- NAN1 with AI set and AN free (R402, R403). -/
def nanOut (env : Env) : AluOut :=
  ⟨nan1, { az := false, au := false, an := nanSign env, av := false, ac := false, as := false, ai := true, af := true }⟩

/-- A rounded result with its flags: AV of an overflow, AZ and AU of a flushed denormal (R401, R403). -/
def roundedOut (r : Rounded) : AluOut :=
  ⟨r.value, { fltFlags r.value with au := r.underflow, av := r.overflow }⟩

/-! ### The adder core (R404) -/

/-- The operand with bit 39 inverted. -/
def fneg (v : DataWord) : DataWord := v ^^^ 0x8000000000#40

/-- The operand with bit 39 cleared. -/
def fabs (v : DataWord) : DataWord := v &&& 0x7FFFFFFFFF#40

/-- The operand's value in units of `2 ^ low`, for `low` at most its own unit. -/
def alignedTo (v : DataWord) (low : Int) : Int :=
  let m : Int := (fsig v : Int) * 2 ^ (funit v - low).toNat
  if fsign v then -m else m

/-- The unit both operands are exact in; a Zero asks for none. -/
def commonUnit (a b : DataWord) : Int :=
  if fclass a = .zero then funit b else if fclass b = .zero then funit a else min (funit a) (funit b)

/-- The exact sum of two operands that are Zero or Normal, in units of `commonUnit`. -/
def exactSum (a b : DataWord) : Int :=
  alignedTo a (commonUnit a b) + alignedTo b (commonUnit a b)

/-- The sum of two operands that are Zero or Normal, halved before rounding if asked, rounded once (R404). -/
def finiteSum (env : Env) (a b : DataWord) (half : Bool) : AluOut :=
  let x := exactSum a b
  if x = 0 then
    fltOut (fzero (fsign a && fsign b && decide (fclass a = .zero) && decide (fclass b = .zero)))
  else
    roundedOut (fround env.mode1 (decide (x < 0)) x.natAbs (commonUnit a b - (if half then 1 else 0))
      (fracBits env.mode1))

/-- The result with its sign cleared, AN 0 (R404, `absr`). -/
def absOut (o : AluOut) : AluOut :=
  if o.flags.ai then ⟨o.value, { o.flags with an := false }⟩
  else ⟨fabs o.value, { o.flags with an := false }⟩

/-- `fadd` without `absr`, b's sign already inverted for a subtraction (R404). -/
def faddCore (env : Env) (a b : DataWord) (half : Bool) : AluOut :=
  if fclass a = .nan ∨ fclass b = .nan then nanOut env
  else if fclass a = .inf ∧ fclass b = .inf ∧ fsign a ≠ fsign b then nanOut env
  else if fclass a = .inf then fltOut a
  else if fclass b = .inf then fltOut b
  else finiteSum env a b half

/-- `fadd` (R404). -/
def fadd (env : Env) (a b : DataWord) (negB half absr : Bool) : AluOut :=
  let o := faddCore env a (if negB then fneg b else b) half
  if absr then absOut o else o

/-! ### Order (R410, R428) -/

/-- A number that is not a NaN as an integer that orders as its value: Inf above every Normal, both Zeros 0. -/
def fkey (v : DataWord) : Int :=
  let m : Int := if fclass v = .zero then 0 else ((v.extractLsb' 0 39).toNat : Int)
  if fsign v then -m else m

/-! ### Conversion to fixed-point (R418) -/

/-- A 32-bit result in the fixed-point field (10_state.md R32). -/
def toFx (v : Word) : DataWord := v ++ 0#8

/-- The fixed-point field of a register (10_state.md R32). -/
def fx (v : DataWord) : Word := v.extractLsb' 8 32

/-- `sig / 2 ^ d` with a sign, rounded to an integer (R418). -/
def roundInt (mode : Rounding) (s : Bool) (sig d : Nat) : Int :=
  let q : Nat := sig / 2 ^ d
  let inexact : Bool := decide (sig % 2 ^ d ≠ 0)
  match mode with
  | .nearest => if s then -(roundNearest sig d : Int) else (roundNearest sig d : Int)
  | .zero => if s then -(q : Int) else (q : Int)
  | .floor => if s then -((if inexact then q + 1 else q : Nat) : Int) else (q : Int)

/-- The saturated result of a sign (R418). -/
def satFx (s : Bool) : Word := if s then 0x80000000#32 else 0x7FFFFFFF#32

/-- An Inf or an operand too large: saturated, or NAN1 with AI (R418). -/
def ftoiOverflow (env : Env) (s : Bool) : AluOut :=
  if alusat env.mode1 then
    ⟨toFx (satFx s), { az := false, au := false, an := s, av := true, ac := false, as := false, ai := false, af := true }⟩
  else ⟨nan1, { (nanOut env).flags with av := true }⟩

/-- The one value R418 leaves open: a magnitude rounded up to exactly 2^31. The result and all ALU flags, AF too, are free
(U16, log entry 35). -/
def ftoiOpen (env : Env) : AluOut :=
  let w := Config.freeWord (.fixFlags env.e) env.clock
  ⟨(Config.freeWord (.fixResult env.e) env.clock).extractLsb' 0 40,
    { az := w.getLsbD 0, au := w.getLsbD 1, an := w.getLsbD 2, av := w.getLsbD 3, ac := w.getLsbD 4, as := w.getLsbD 5,
      ai := w.getLsbD 6, af := w.getLsbD 7, floating := true }⟩

/-- `ftoi (v, k, mode)` (R418). An operand scaled far below one is shifted by at most 64 places, which leaves the same
integer for a significand of 32 bits. -/
def ftoi (env : Env) (v : DataWord) (k : Int) (mode : Rounding) : AluOut :=
  match fclass v with
  | .nan => nanOut env
  | .inf => ftoiOverflow env (fsign v)
  | .zero =>
    ⟨0#40, { az := true, au := false, an := false, av := false, ac := false, as := false, ai := false, af := true }⟩
  | .normal =>
    let ek : Int := (fexp v : Int) + k
    if ek > 157 then ftoiOverflow env (fsign v)
    else
      let n := roundInt mode (fsign v) (fsig v) (min (158 - ek).toNat 64)
      if n.natAbs = 2 ^ 31 then ftoiOpen env
      else
        ⟨toFx (BitVec.ofInt 32 n),
          { az := decide (n = 0), au := decide (ek < 1), an := decide (n < 0), av := false, ac := false, as := false,
            ai := false, af := true }⟩

end Sys2Proof.Machine
end

