-- ==== Sys2Proof/Machine/AluFixed.lean ====
section
/-! DEFINITION. The fixed-point ALU (44_alu_fixed.md; the dual add/subtract of 48_multifunction.md R532). -/

namespace Sys2Proof.Machine

/-- What the adder puts out: raw result, carry from the most significant stage, signed overflow (R361). -/
structure AddOut where
  r : Word
  carry : Bool
  ov : Bool
  deriving DecidableEq, Repr

/-- The adder (R361). -/
def add32 (a b : Word) (cin : Bool) : AddOut :=
  let s := a.toNat + b.toNat + cin.toNat
  let c32 := decide (2 ^ 32 ≤ s)
  let c31 := decide (2 ^ 31 ≤ a.toNat % 2 ^ 31 + b.toNat % 2 ^ 31 + cin.toNat)
  ⟨BitVec.ofNat 32 s, c32, c32 != c31⟩

/-- Saturation (R362). -/
def saturate (mode1 : Word) (o : AddOut) : Word :=
  if alusat mode1 && o.ov then (if o.r.getLsbD 31 then 0x7FFFFFFF#32 else 0x80000000#32) else o.r

/-- `logic_flags` (R363). -/
def logicFlags (out : Word) : AluFlags :=
  { az := decide (out = 0#32), au := false, an := out.getLsbD 31, av := false, ac := false, as := false, ai := false,
    af := false }

/-- An output with `logic_flags`. -/
def logicOut (out : Word) : AluOut := ⟨toFx out, logicFlags out⟩

/-- The saturated output of the adder with `std_add_flags` (R362, R363). -/
def addOut (mode1 : Word) (o : AddOut) : AluOut :=
  let out := saturate mode1 o
  ⟨toFx out, { logicFlags out with av := o.ov, ac := o.carry }⟩

/-- The average: the exact signed sum halved, to minus infinity when truncating, else to nearest even (R370). -/
def average (mode1 : Word) (x y : Word) : Word :=
  let s := x.toInt + y.toInt
  let q := s / 2
  if truncMode mode1 then BitVec.ofInt 32 q
  else if s % 2 = 0 then BitVec.ofInt 32 q
  else if q % 2 = 0 then BitVec.ofInt 32 q
  else BitVec.ofInt 32 (q + 1)

/-- CLIP (R384). -/
def clipFixed (x y : Word) : Word :=
  if x.toInt.natAbs < y.toInt.natAbs then x
  else if 0 ≤ x.toInt then BitVec.ofInt 32 y.toInt.natAbs
  else BitVec.ofInt 32 (-(y.toInt.natAbs : Int))

/-- The two-operand operations; `ci` is AC before the operation (R364, R365, R368 to R370, R378 to R380,
R382 to R384). -/
def fixOp2 (op : FixOp2) (mode1 : Word) (ci : Bool) (x y : Word) : AluOut :=
  match op with
  | .add => addOut mode1 (add32 x y false)
  | .sub => addOut mode1 (add32 x (~~~y) true)
  | .addCi => addOut mode1 (add32 x y ci)
  | .subCi => addOut mode1 (add32 x (~~~y) ci)
  | .avg =>
    let out := average mode1 x y
    ⟨toFx out, { logicFlags out with ac := (add32 x y false).carry }⟩
  | .and => logicOut (x &&& y)
  | .or => logicOut (x ||| y)
  | .xor => logicOut (x ^^^ y)
  | .min => logicOut (if x.toInt ≤ y.toInt then x else y)
  | .max => logicOut (if y.toInt ≤ x.toInt then x else y)
  | .clip => logicOut (clipFixed x y)

/-- The one-operand operations; `ci` is AC before the operation (R371 to R377, R381). -/
def fixOp1 (op : FixOp1) (mode1 : Word) (ci : Bool) (x : Word) : AluOut :=
  match op with
  | .incCi => addOut mode1 (add32 x 0#32 ci)
  | .decCi => addOut mode1 (add32 x 0xFFFFFFFF#32 ci)
  | .inc => addOut mode1 (add32 x 0#32 true)
  | .dec => addOut mode1 (add32 x 0xFFFFFFFF#32 false)
  | .neg => addOut mode1 (add32 0#32 (~~~x) true)
  | .abs =>
    let o := addOut mode1 (if x.getLsbD 31 then add32 0#32 (~~~x) true else add32 x 0#32 false)
    ⟨o.value, { o.flags with as := x.getLsbD 31 }⟩
  | .pass => logicOut x
  | .not => logicOut (~~~x)

/-- What a compare puts out: its flags and whether x is greater (R366, R367). -/
structure CompOut where
  flags : AluFlags
  gt : Bool
  deriving DecidableEq, Repr

/-- The flags of a compare that found `eq` and `lt`. -/
def compOut (eq lt ai af : Bool) : CompOut :=
  ⟨{ az := eq, au := false, an := lt, av := false, ac := false, as := false, ai := ai, af := af }, !eq && !lt⟩

/-- COMP and COMPU (R366, R367). -/
def compareFixed (unsigned : Bool) (x y : Word) : CompOut :=
  if unsigned then compOut (decide (x = y)) (decide (x.toNat < y.toNat)) false false
  else compOut (decide (x = y)) (decide (x.toInt < y.toInt)) false false

/-- What a dual add/subtract puts out. -/
structure DualOut where
  sum : DataWord
  diff : DataWord
  flags : AluFlags
  deriving DecidableEq, Repr

/-- The fixed-point dual add/subtract (48_multifunction.md R532). -/
def dualFixed (mode1 : Word) (x y : Word) : DualOut :=
  let a := addOut mode1 (add32 x y false)
  let s := addOut mode1 (add32 x (~~~y) true)
  ⟨a.value, s.value,
    { az := a.flags.az || s.flags.az, au := false, an := a.flags.an || s.flags.an, av := a.flags.av || s.flags.av,
      ac := a.flags.ac || s.flags.ac, as := false, ai := false, af := false }⟩

end Sys2Proof.Machine
end

