-- ==== Sys2Proof/Machine/AluFloat.lean ====
section
/-! DEFINITION. The floating-point ALU (45_alu_float.md R405 to R430; the dual add/subtract of 48_multifunction.md
R533). -/

namespace Sys2Proof.Machine

/-- COMP of two floating-point operands; with a NaN, equal and smaller are free (R410, U15). -/
def compareFloat (env : Env) (a b : DataWord) : CompOut :=
  if fclass a = .nan ∨ fclass b = .nan then
    compOut (Config.freeBit (.compAz env.e) env.clock) (Config.freeBit (.aluAn env.e) env.clock) true true
  else compOut (decide (fkey a = fkey b)) (decide (fkey a < fkey b)) false true

/-- SCALB of an operand by an integer (R415). -/
def scalb (env : Env) (v : DataWord) (k : Int) : AluOut :=
  match fclass v with
  | .nan => nanOut env
  | .zero => fltOut (fzero (fsign v))
  | .inf => fltOut v
  | .normal =>
    let e : Int := (fexp v : Int) - 127 + k
    if e > 127 then roundedOut ⟨foverflow env.mode1 (fsign v) (fracBits env.mode1), true, false⟩
    else if e < -126 then roundedOut ⟨fzero (fsign v), false, true⟩
    else fltOut (fpack40 (fsign v) (e + 127).toNat (ffrac v))

/-- FLOAT of an integer by a scale, always to the 40-bit boundary (R423). -/
def floatBy (env : Env) (i : Word) (k : Int) : AluOut :=
  if i = 0#32 then fltOut (fzero false)
  else roundedOut (fround env.mode1 (decide (i.toInt < 0)) i.toInt.natAbs k 31)

/-- The operand of the smaller value, -Zero below +Zero (R428). -/
def fmin (a b : DataWord) : DataWord :=
  if fkey a < fkey b then a
  else if fkey b < fkey a then b
  else if fsign b then b else a

/-- The operand of the larger value, +Zero above -Zero (R429). -/
def fmax (a b : DataWord) : DataWord :=
  if fkey a < fkey b then b
  else if fkey b < fkey a then a
  else if fsign b then a else b

/-- The magnitude of `b` with the sign of `a`. -/
def withSign (s : Bool) (b : DataWord) : DataWord :=
  BitVec.ofBool s ++ b.extractLsb' 0 39

/-- CLIP of two flushed operands (R430). -/
def fclip (a b : DataWord) : DataWord :=
  if (fkey a).natAbs < (fkey b).natAbs then a else withSign (fsign a) b

/-- An operation on two operands that answers NAN1 for a NaN and otherwise works on the flushed operands. -/
def onNumbers (env : Env) (a b : DataWord) (f : DataWord → DataWord → DataWord) : AluOut :=
  if fclass a = .nan ∨ fclass b = .nan then nanOut env else fltOut (f (flush a) (flush b))

/-- The rounding of FIX (R418). -/
def fixMode (mode1 : Word) : Rounding := if truncMode mode1 then .floor else .nearest

/-- The two-operand operations on the 40-bit sources; SCALB, FIX BY, TRUNC BY and FLOAT BY read the fixed-point field
of the y source, FLOAT BY also of the x source (R405 to R409, R415, R420, R422, R423, R427 to R430). -/
def fltOp2 (op : FltOp2) (env : Env) (a b : DataWord) : AluOut :=
  match op with
  | .add => fadd env a b false false false
  | .sub => fadd env a b true false false
  | .absAdd => fadd env a b false false true
  | .absSub => fadd env a b true false true
  | .avg => fadd env a b false true false
  | .scalb => scalb env a (fx b).toInt
  | .fixBy => ftoi env a (fx b).toInt (fixMode env.mode1)
  | .truncBy => ftoi env a (fx b).toInt .zero
  | .floatBy => floatBy env (fx a) (fx b).toInt
  | .copysign =>
    if fclass a = .nan ∨ fclass b = .nan then nanOut env else fltOut (withSign (fsign b) (flush a))
  | .min => onNumbers env a b fmin
  | .max => onNumbers env a b fmax
  | .clip => onNumbers env a b fclip

/-- ABS (R412): AN cleared, AS the sign of the input, 0 for a NaN. -/
def fabsOut (v : DataWord) : AluOut :=
  if fclass v = .nan then
    ⟨nan1, { az := false, au := false, an := false, av := false, ac := false, as := false, ai := true, af := true }⟩
  else ⟨fabs (flush v), { fltFlags (fabs (flush v)) with an := false, as := fsign v }⟩

/-- RND (R414): always to the 32-bit boundary; AU cleared. -/
def frnd (env : Env) (v : DataWord) : AluOut :=
  match fclass v with
  | .nan => nanOut env
  | .zero => fltOut (fzero (fsign v))
  | .inf => fltOut v
  | .normal =>
    let o := roundedOut (fround env.mode1 (fsign v) (fsig v) (funit v) 23)
    ⟨o.value, { o.flags with au := false }⟩

/-- MANT (R416): AN cleared, AS the sign of the input, 0 for a NaN (R403). -/
def mant (v : DataWord) : AluOut :=
  match fclass v with
  | .nan =>
    ⟨nan1, { az := false, au := false, an := false, av := false, ac := false, as := false, ai := true, af := true }⟩
  | .inf =>
    ⟨nan1, { az := false, au := false, an := false, av := true, ac := false, as := fsign v, ai := false, af := true }⟩
  | .zero =>
    ⟨0#40, { az := true, au := false, an := false, av := false, ac := false, as := fsign v, ai := false, af := true }⟩
  | .normal =>
    ⟨toFx (1#1 ++ v.extractLsb' 0 31),
      { az := false, au := false, an := false, av := false, ac := false, as := fsign v, ai := false, af := true }⟩

/-- A LOGB result: AZ of a zero fixed-point result, AN its sign bit (R417). -/
def logbOut (r : DataWord) (av : Bool) : AluOut :=
  ⟨r, { az := decide (r = 0#40), au := false, an := r.getLsbD 39, av := av, ac := false, as := false, ai := false,
        af := true }⟩

/-- LOGB (R417). -/
def logb (env : Env) (v : DataWord) : AluOut :=
  match fclass v with
  | .nan => nanOut env
  | .inf => logbOut (if alusat env.mode1 then toFx 0x7FFFFFFF#32 else finf false) true
  | .zero => logbOut (if alusat env.mode1 then toFx 0x80000000#32 else finf true) true
  | .normal => logbOut (toFx (BitVec.ofInt 32 ((fexp v : Int) - 127))) false

/-- A seed result: AN the sign of the input (R425). -/
def seedOut (r : DataWord) (az an av ai : Bool) : AluOut :=
  ⟨r, { az := az, au := false, an := an, av := av, ac := false, as := false, ai := ai, af := true }⟩

/-- RECIPS (R425). -/
def recips (v : DataWord) : AluOut :=
  match fclass v with
  | .nan => seedOut nan1 false (fsign v) false true
  | .zero => seedOut (finf (fsign v)) false (fsign v) true false
  | .inf => seedOut (fzero (fsign v)) true (fsign v) false false
  | .normal =>
    if 252 < fexp v then seedOut (fzero (fsign v)) true (fsign v) false false
    else
      seedOut (BitVec.ofBool (fsign v) ++ (BitVec.ofNat 8 (253 - fexp v) ++ Config.recipsRom (v.extractLsb' 24 7)))
        false (fsign v) false false

/-- The biased exponent of an RSQRTS seed: `127 - floor (e / 2) - 1` with `e = E - 127` (R426). -/
def rsqrtsExp (v : DataWord) : Int := 126 - ((fexp v : Int) - 127) / 2

/-- RSQRTS (R426). -/
def rsqrts (v : DataWord) : AluOut :=
  match fclass v with
  | .nan => seedOut nan1 false false false true
  | .zero => seedOut (finf (fsign v)) false (fsign v) true false
  | .inf => if fsign v then seedOut nan1 false false false true else seedOut (fzero false) true false false false
  | .normal =>
    if fsign v then seedOut nan1 false false false true
    else
      seedOut (0#1 ++ (BitVec.ofInt 8 (rsqrtsExp v) ++ Config.rsqrtsRom (v.extractLsb' 31 1 ++ v.extractLsb' 25 6)))
        false false false false

/-- The one-operand operations; FLOAT reads the fixed-point field (R411 to R414, R416, R417, R419, R421, R424 to
R426). -/
def fltOp1 (op : FltOp1) (env : Env) (v : DataWord) : AluOut :=
  match op with
  | .neg => if fclass v = .nan then nanOut env else fltOut (fneg (flush v))
  | .abs => fabsOut v
  | .pass => if fclass v = .nan then nanOut env else fltOut (flush v)
  | .rnd => frnd env v
  | .mant => mant v
  | .logb => logb env v
  | .fix => ftoi env v 0 (fixMode env.mode1)
  | .trunc => ftoi env v 0 .zero
  | .float => floatBy env (fx v) 0
  | .recips => recips v
  | .rsqrts => rsqrts v

/-- The floating-point dual add/subtract: each flag the OR of both; AN free when a result is NAN1
(48_multifunction.md R533, log entry 49). -/
def dualFloat (env : Env) (a b : DataWord) : DualOut :=
  let p := fadd env a b false false false
  let m := fadd env a b true false false
  ⟨p.value, m.value,
    { az := p.flags.az || m.flags.az, au := p.flags.au || m.flags.au,
      an := if p.flags.ai || m.flags.ai then nanSign env else p.flags.an || m.flags.an,
      av := p.flags.av || m.flags.av, ac := false, as := false, ai := p.flags.ai || m.flags.ai, af := true }⟩

end Sys2Proof.Machine
end

