-- ==== Sys2Proof/Machine/Multiplier.lean ====
section
/-! DEFINITION. The multiplier (46_multiplier.md). -/

namespace Sys2Proof.Machine

/-- Bit f of a format: fractional. -/
def isFractional : MulFormat → Bool
  | .integer => false
  | .fractional => true
  | .rounded => true

/-- Bit r of a format: rounded. -/
def isRounded : MulFormat → Bool
  | .integer => false
  | .fractional => false
  | .rounded => true

/-- A result is signed when either input is (R452). -/
def signedResult (m : Mod2) : Bool := m.xSigned || m.ySigned

/-- A 32-bit input as an integer, signed or unsigned. -/
def inputValue (signed : Bool) (v : Word) : Int := if signed then v.toInt else v.toNat

/-- The product (R452). -/
def prod80 (m : Mod2) (x y : Word) : ResultWord :=
  let p := inputValue m.xSigned x * inputValue m.ySigned y
  if isFractional m.format && m.xSigned && m.ySigned then BitVec.ofInt 80 (p * 2) else BitVec.ofInt 80 p

/-- Rounding at bit 32, nearest with a tie to even, bits 31 to 0 cleared (R453). -/
def rnd80 (v : ResultWord) : ResultWord :=
  let hi := v.extractLsb' 32 48
  let lo := (v.extractLsb' 0 32).toNat
  (if 2 ^ 31 < lo ∨ (lo = 2 ^ 31 ∧ hi.getLsbD 0) then hi + 1#48 else hi) ++ 0#32

/-- Rounding if the format asks for it. -/
def roundFor (m : Mod2) (v : ResultWord) : ResultWord := if isRounded m.format then rnd80 v else v

/-- Bits 79 to `lo` are all 0, or all 1 when the result is signed. -/
def upperPlain (r : ResultWord) (lo : Nat) (signed : Bool) : Bool :=
  let u := r.toNat / 2 ^ lo
  decide (u = 0) || (signed && decide (u = 2 ^ (80 - lo) - 1))

/-- MV of a fixed-point result (R454). -/
def mvFixed (r : ResultWord) (frac signed : Bool) : Bool :=
  match frac, signed with
  | false, true => !upperPlain r 31 true
  | false, false => !upperPlain r 32 false
  | true, true => !upperPlain r 63 true
  | true, false => !upperPlain r 64 false

/-- MU of a fixed-point result (R454). -/
def muFixed (r : ResultWord) (frac signed : Bool) : Bool :=
  frac && upperPlain r 32 signed && decide (r.extractLsb' 0 32 ≠ 0#32)

/-- The flags of a fixed-point result (R454). -/
def mulFlags (r : ResultWord) (frac signed : Bool) : MulFlags :=
  { mn := r.getLsbD 79, mv := mvFixed r frac signed, mu := muFixed r frac signed, mi := false, floating := false }

/-- The part of a result that goes to the register file (R455). -/
def toRn (r : ResultWord) (frac : Bool) : DataWord :=
  toFx (if frac then r.extractLsb' 32 32 else r.extractLsb' 0 32)

/-- What the multiplier puts out: an 80-bit result, and the flags. -/
structure MulOut where
  r : ResultWord
  flags : MulFlags
  deriving DecidableEq, Repr

/-- A rounded result with its flags. -/
def mulOut (m : Mod2) (v : ResultWord) : MulOut :=
  let r := roundFor m v
  ⟨r, mulFlags r (isFractional m.format) (signedResult m)⟩

/-- Multiply (R456 to R458). -/
def multiply (m : Mod2) (x y : Word) : MulOut := mulOut m (prod80 m x y)

/-- Multiply and accumulate or subtract, modulo 2^80 (R459 to R466). -/
def multiplyAcc (sub : Bool) (m : Mod2) (acc : ResultWord) (x y : Word) : MulOut :=
  mulOut m (if sub then acc - prod80 m x y else acc + prod80 m x y)

/-- Saturation of an MR value (R473). -/
def sat80 (m : Mod1) (v : ResultWord) : ResultWord :=
  match m.signed, m.fractional with
  | true, false =>
    if 2 ^ 31 - 1 < v.toInt then 0x0000000000007FFFFFFF#80
    else if v.toInt < -(2 ^ 31) then 0xFFFFFFFFFFFF80000000#80 else v
  | false, false => if 2 ^ 32 - 1 < v.toNat then 0x000000000000FFFFFFFF#80 else v
  | true, true =>
    if 2 ^ 63 - 1 < v.toInt then 0x00007FFFFFFFFFFFFFFF#80
    else if v.toInt < -(2 ^ 63) then 0xFFFF8000000000000000#80 else v
  | false, true => if 2 ^ 64 - 1 < v.toNat then 0x0000FFFFFFFFFFFFFFFF#80 else v

/-- SAT: MV and MI cleared (R473). -/
def saturateMr (m : Mod1) (v : ResultWord) : MulOut :=
  let r := sat80 m v
  ⟨r, { mulFlags r m.fractional m.signed with mv := false }⟩

/-- RND: MI not affected (R478). -/
def roundMr (signed mi : Bool) (v : ResultWord) : MulOut :=
  let r := rnd80 v
  ⟨r, { mulFlags r true signed with mi := mi }⟩

/-- What the floating-point multiplier puts out. -/
structure FMulOut where
  value : DataWord
  flags : MulFlags
  deriving DecidableEq, Repr

/-- An invalid product: NAN1, MI set, MN free (R484, U15). -/
def fmulNan (env : Env) : FMulOut :=
  ⟨nan1, { mn := Config.freeBit (.mulMn env.e) env.clock, mv := false, mu := false, mi := true, floating := true }⟩

/-- A floating-point product with its sign in MN. -/
def fmulOut (r : DataWord) (mv mu : Bool) : FMulOut :=
  ⟨r, { mn := fsign r, mv := mv, mu := mu, mi := false, floating := true }⟩

/-- Floating-point multiply (R484). -/
def fmul (env : Env) (a b : DataWord) : FMulOut :=
  let s := fsign a != fsign b
  if fclass a = .nan ∨ fclass b = .nan then fmulNan env
  else if (fclass a = .inf ∧ fclass b = .zero) ∨ (fclass a = .zero ∧ fclass b = .inf) then fmulNan env
  else if fclass a = .inf ∨ fclass b = .inf then fmulOut (finf s) false false
  else if fclass a = .zero ∨ fclass b = .zero then fmulOut (fzero s) false false
  else
    let r := fround env.mode1 s (fsig a * fsig b) (funit a + funit b) (fracBits env.mode1)
    fmulOut r.value r.overflow r.underflow

/-- A part of an MR register as 32 bits: MR2 sign-extended (R472). -/
def mrPart (r : ResultWord) : MrPart → Word
  | .mr0 => r.extractLsb' 0 32
  | .mr1 => r.extractLsb' 32 32
  | .mr2 => (r.extractLsb' 64 16).signExtend 32

/-- An MR register with one part replaced, the others kept (R471). -/
def withMrPart (r : ResultWord) (v : Word) : MrPart → ResultWord
  | .mr0 => r.extractLsb' 32 48 ++ v
  | .mr1 => r.extractLsb' 64 16 ++ (v ++ r.extractLsb' 0 32)
  | .mr2 => v.extractLsb' 0 16 ++ r.extractLsb' 0 64

/-- The flags of an MR transfer: all cleared (R470). -/
def transferFlags : MulFlags := { mn := false, mv := false, mu := false, mi := false, floating := false }

end Sys2Proof.Machine
end

