-- ==== Sys2Proof/Machine/Shifter.lean ====
section
/-! DEFINITION. The shifter (47_shifter.md). -/

namespace Sys2Proof.Machine

/-- What the shifter puts out: the fixed-point field it writes, if any, and its flags. -/
structure ShiftOut where
  out : Word
  flags : ShiftFlags
  deriving DecidableEq, Repr

/-- `lsh` (R492). -/
def lsh (x : Word) (k : Int) : Word :=
  if 32 ≤ k then 0#32
  else if 0 ≤ k then x <<< k.toNat
  else if -32 < k then x >>> (-k).toNat
  else 0#32

/-- `ash` (R494). -/
def ash (x : Word) (k : Int) : Word :=
  if 0 ≤ k then lsh x k
  else if -32 < k then x.sshiftRight (-k).toNat
  else if x.getLsbD 31 then 0xFFFFFFFF#32 else 0#32

/-- The rotation: left by `k mod 32` (R496). -/
def rotBy (x : Word) (k : Int) : Word := x.rotateLeft (k % 32).toNat

/-- The position is a bit of a 32-bit field. -/
def inField (k : Int) : Bool := decide (0 ≤ k ∧ k ≤ 31)

/-- The mask of bit `k`, empty off the field. -/
def bitMask (k : Int) : Word := if inField k then 1#32 <<< k.toNat else 0#32

/-- A shift: SV for a left shift by more than 0 (R492). -/
def shiftedOut (out : Word) (k : Int) : ShiftOut :=
  ⟨out, { sz := decide (out = 0#32), sv := decide (0 < k), ss := false }⟩

/-- A shift ORed into the old field of Rn: SZ is free when the shifted value is zero and the written one is not (R493,
U17, log entry 36). -/
def orShiftedOut (env : Env) (old sh : Word) (k : Int) : ShiftOut :=
  let out := old ||| sh
  ⟨out,
    { sz := if sh = 0#32 ∧ out ≠ 0#32 then Config.freeBit (.orShiftSz env.e) env.clock else decide (out = 0#32),
      sv := decide (0 < k), ss := false }⟩

/-- A bit operation: SV for a position above 31 (R497). -/
def bitOut (out : Word) (k : Int) : ShiftOut :=
  ⟨out, { sz := decide (out = 0#32), sv := decide (31 < k), ss := false }⟩

/-- The operations with a shift count or bit position `k`; `old` is the old field of Rn (R492 to R499). -/
def shiftOp (op : ShiftOp) (env : Env) (old x : Word) (k : Int) : ShiftOut :=
  match op with
  | .lshift => shiftedOut (lsh x k) k
  | .orLshift => orShiftedOut env old (lsh x k) k
  | .ashift => shiftedOut (ash x k) k
  | .orAshift => orShiftedOut env old (ash x k) k
  | .rot => ⟨rotBy x k, { sz := decide (rotBy x k = 0#32), sv := false, ss := false }⟩
  | .bclr => bitOut (x &&& ~~~bitMask k) k
  | .bset => bitOut (x ||| bitMask k) k
  | .btgl => bitOut (x ^^^ bitMask k) k

/-- BTST: SZ when the bit is 0 or there is no such bit (R500). -/
def btstFlags (x : Word) (k : Int) : ShiftFlags :=
  { sz := decide (x &&& bitMask k = 0#32), sv := decide (31 < k), ss := false }

/-- `dep` (R501). -/
def deposit (x : Word) (bit6 len6 : Nat) (se : Bool) : Word :=
  let wide := x.toNat % 2 ^ len6 * 2 ^ bit6
  if se && decide (1 ≤ len6 ∧ bit6 + len6 ≤ 32) && x.getLsbD (len6 - 1) then
    BitVec.ofNat 32 (wide + (2 ^ 32 - 2 ^ (bit6 + len6)))
  else BitVec.ofNat 32 wide

/-- `ext` (R501). -/
def extract (x : Word) (bit6 len6 : Nat) (se : Bool) : Word :=
  let fld := x.toNat / 2 ^ bit6 % 2 ^ len6
  if se && decide (1 ≤ len6 ∧ bit6 + len6 ≤ 32) && x.getLsbD (bit6 + len6 - 1) then
    BitVec.ofNat 32 (fld + (2 ^ 32 - 2 ^ len6))
  else BitVec.ofNat 32 fld

/-- The field written by a field operation; `old` is the old field of Rn (R502 to R507). -/
def fieldValue (op : FieldOp) (old x : Word) (bit6 len6 : Nat) : Word :=
  match op with
  | .fdep => deposit x bit6 len6 false
  | .orFdep => old ||| deposit x bit6 len6 false
  | .fdepSe => deposit x bit6 len6 true
  | .orFdepSe => old ||| deposit x bit6 len6 true
  | .fext => extract x bit6 len6 false
  | .fextSe => extract x bit6 len6 true

/-- A field operation: SZ of the output, SV when the field reaches beyond 32 bits (R501 to R507). -/
def fieldOp (op : FieldOp) (old x : Word) (bit6 len6 : Nat) : ShiftOut :=
  let out := fieldValue op old x bit6 len6
  ⟨out, { sz := decide (out = 0#32), sv := decide (32 < bit6 + len6), ss := false }⟩

/-- The number of leading 0 bits, 0 to 32 (R510). -/
def leadingZeros (x : Word) : Nat := if x = 0#32 then 32 else 31 - Nat.log2 x.toNat

/-- The number of leading bits equal to the sign, the sign included, 1 to 32 (R508). -/
def leadingSigns (x : Word) : Nat := leadingZeros (if x.getLsbD 31 then ~~~x else x)

/-- An exponent in the shf8 field, sign-extended (R508). -/
def expOut (e : Int) (ss : Bool) : ShiftOut :=
  ⟨BitVec.ofInt 32 e, { sz := decide (e = 0), sv := false, ss := ss }⟩

/-- A count in the bit6 field (R510). -/
def countOut (n : Nat) : ShiftOut :=
  ⟨BitVec.ofNat 32 n, { sz := decide (n = 0), sv := decide (n = 32), ss := false }⟩

/-- What FPACK packs of an exponent and a fraction, as a numerator and a power of 2 below it: `pe ++ pf` before the
rounding; nothing above and below its range (R512). -/
def packSource (e f : Nat) : Option (Nat × Nat) :=
  if 120 < e ∧ e ≤ 135 then some ((e - 120) * 2 ^ 23 + f, 12)
  else if 109 < e ∧ e ≤ 120 then some (2 ^ 23 + f, 133 - e)
  else none

/-- The magnitude of FPACK, more than 0x7FFF when it overflows: half a unit is added to `m / 2 ^ d` (R512). -/
def packMagnitude (e f : Nat) : Nat :=
  match packSource e f with
  | some (m, d) => (2 * m + 2 ^ d) / 2 ^ (d + 1)
  | none => if 135 < e then 2 ^ 15 else 0

/-- The source lies halfway between two packed numbers (R512, U18). -/
def packTie (e f : Nat) : Bool :=
  match packSource e f with
  | some (m, d) => decide (2 * (m % 2 ^ d) = 2 ^ d)
  | none => false

/-- The 15 bits FPACK writes below the sign: the magnitude, at most the largest; on a tie the low bit is a free bit (R512,
U18, log entry 37). -/
def packBits (env : Env) (e f : Nat) : BitVec 15 :=
  let n := min (packMagnitude e f) 0x7FFF
  BitVec.ofNat 15 (if packTie e f then 2 * (n / 2) + (Config.freeBit (.fpackTie env.e) env.clock).toNat else n)

/-- FPACK of a register (R512). -/
def fpackOp (env : Env) (v : DataWord) : ShiftOut :=
  let f := (v.extractLsb' 8 23).toNat
  ⟨0#16 ++ (BitVec.ofBool (fsign v) ++ packBits env (fexp v) f),
    { sz := false, sv := decide (0x7FFF < packMagnitude (fexp v) f), ss := false }⟩

/-- FUNPACK of a fixed-point field, the 32 bits of the result (R513). -/
def unpackValue (x : Word) : Word :=
  let s := x.extractLsb' 15 1
  let pe := (x.extractLsb' 11 4).toNat
  let pf := (x.extractLsb' 0 11).toNat
  if pe = 0 then
    if pf = 0 then s ++ 0#31
    else
      let n := 10 - Nat.log2 pf
      s ++ (BitVec.ofNat 8 (120 - n) ++ BitVec.ofNat 23 ((pf - 2 ^ Nat.log2 pf) * 2 ^ (13 + n)))
  else s ++ (BitVec.ofNat 8 (pe + 120) ++ BitVec.ofNat 23 (pf * 2 ^ 12))

/-- The one-operand operations on the 40-bit source; `av` is AV before the operation (R508 to R513). -/
def shiftOp1 (op : ShiftOp1) (env : Env) (av : Bool) (v : DataWord) : ShiftOut :=
  let x := fx v
  match op with
  | .exp => expOut (1 - (leadingSigns x : Int)) (x.getLsbD 31)
  | .expEx => expOut (if av then 1 else 1 - (leadingSigns x : Int)) (av != x.getLsbD 31)
  | .leftz => countOut (leadingZeros x)
  | .lefto => countOut (leadingZeros (~~~x))
  | .fpack => fpackOp env v
  | .funpack => ⟨unpackValue x, { sz := false, sv := false, ss := false }⟩

end Sys2Proof.Machine
end

