-- ==== Sys2Proof/Machine/Compute.lean ====
section
/-! DEFINITION. A compute operation on one processing element (40_compute_move.md R220, 48_multifunction.md R530): from
the element's registers before the instruction, what it writes. -/

namespace Sys2Proof.Machine

/-- What a compute writes on its element: data registers, one MR register, and the flags of each unit that runs. -/
structure PeResult where
  regs : List (RegNum × DataWord)
  mr : Option (MrBank × ResultWord)
  alu : Option AluFlags
  /-- a compare's result, which enters the compare accumulation. -/
  cmp : Option Bool
  mul : Option MulFlags
  shf : Option ShiftFlags
  deriving DecidableEq, Repr

/-- Nothing written. -/
def PeResult.none : PeResult := ⟨[], .none, .none, .none, .none, .none⟩

/-- ASTAT after the flags of a result (R51). -/
def PeResult.astat (r : PeResult) (w : Word) : Word :=
  let w := match r.cmp with
    | .some gt => accumulateCompare gt w
    | .none => w
  let w := match r.alu with
    | .some f => f.into w
    | .none => w
  let w := match r.mul with
    | .some f => f.into w
    | .none => w
  match r.shf with
  | .some f => f.into w
  | .none => w

/-- The sticky bits a result sets (R54). -/
def PeResult.sticky (r : PeResult) : Word :=
  (match r.alu with
    | .some f => f.sticky
    | .none => 0#32) |||
  (match r.mul with
    | .some f => f.sticky
    | .none => 0#32)

/-- Some unit writes its flags. -/
def PeResult.writesFlags (r : PeResult) : Bool := r.alu.isSome || r.mul.isSome || r.shf.isSome

/-- The MR register of a bank. -/
def Pe.mr (p : Pe) (bank : MrBank) : ResultWord :=
  match bank with
  | .f => p.mrf
  | .b => p.mrb

/-- The element with an MR register replaced. -/
def Pe.withMr (p : Pe) (bank : MrBank) (v : ResultWord) : Pe :=
  match bank with
  | .f => { p with mrf := v }
  | .b => { p with mrb := v }

/-- The element after a result. -/
def Pe.apply (p : Pe) (r : PeResult) : Pe :=
  let q : Pe :=
    { p with
      rf := r.regs.foldl (fun rf w => rf.set w.1 w.2) p.rf
      astat := r.astat p.astat
      stky := p.stky ||| r.sticky
      au := match r.alu with
        | .some f => f.au
        | .none => p.au }
  match r.mr with
  | .some (bank, v) => q.withMr bank v
  | .none => q

/-- The fixed-point field of a data register of the element. -/
def Pe.fx (p : Pe) (n : RegNum) : Word := Machine.fx p.rf[n]

/-- The ALU alone: a register and the flags. -/
def aluResult (rn : RegNum) (o : AluOut) : PeResult :=
  { PeResult.none with regs := [(rn, o.value)], alu := some o.flags }

/-- A compare: flags and compare accumulation, no register. -/
def compResult (o : CompOut) : PeResult :=
  { PeResult.none with alu := some o.flags, cmp := some o.gt }

/-- The shifter: the fixed-point field of a register and the flags. -/
def shiftResult (rn : RegNum) (o : ShiftOut) : PeResult :=
  { PeResult.none with regs := [(rn, toFx o.out)], shf := some o.flags }

/-- The multiplier with its result in the register file (R455). -/
def mulToRn (rn : RegNum) (frac : Bool) (o : MulOut) : PeResult :=
  { PeResult.none with regs := [(rn, toRn o.r frac)], mul := some o.flags }

/-- The multiplier with its result in an MR register (R455). -/
def mulToMr (bank : MrBank) (o : MulOut) : PeResult :=
  { PeResult.none with mr := some (bank, o.r), mul := some o.flags }

/-- The floating-point multiplier. -/
def fmulResult (rn : RegNum) (o : FMulOut) : PeResult :=
  { PeResult.none with regs := [(rn, o.value)], mul := some o.flags }

/-- A dual add/subtract. -/
def dualResult (ra rs : RegNum) (o : DualOut) : PeResult :=
  { PeResult.none with regs := [(ra, o.sum), (rs, o.diff)], alu := some o.flags }

/-- Two units at once: both write their results and their flags (48_multifunction.md R530). -/
def PeResult.beside (m a : PeResult) : PeResult :=
  { regs := m.regs ++ a.regs, mr := m.mr, alu := a.alu, cmp := a.cmp, mul := m.mul, shf := a.shf }

/-- Multiplier x input of a multifunction operation: R0 to R3 (48_multifunction.md R531). -/
def regXm (i : Fin 4) : RegNum := ⟨i.val, by omega⟩

/-- Multiplier y input: R4 to R7. -/
def regYm (i : Fin 4) : RegNum := ⟨4 + i.val, by omega⟩

/-- ALU x input: R8 to R11. -/
def regXa (i : Fin 4) : RegNum := ⟨8 + i.val, by omega⟩

/-- ALU y input: R12 to R15. -/
def regYa (i : Fin 4) : RegNum := ⟨12 + i.val, by omega⟩

/-- (SSF) and (SSFR), the modifiers of the multifunction multiplier (48_multifunction.md R535). -/
def ssf : Mod2 := ⟨true, true, .fractional⟩

/-- (SSFR). -/
def ssfr : Mod2 := ⟨true, true, .rounded⟩

/-- The ALU half of a fixed-point multifunction operation (48_multifunction.md R536). -/
def mfFix (op : MfFixOp) : FixOp2 :=
  match op with
  | .add => .add
  | .sub => .sub
  | .avg => .avg

/-- The ALU half of a floating-point multifunction operation (48_multifunction.md R541). -/
def mfFlt (op : MfFltOp) : FltOp2 :=
  match op with
  | .add => .add
  | .sub => .sub
  | .float => .floatBy
  | .fix => .fixBy
  | .max => .max
  | .min => .min

/-- The multiplier half of a fixed-point multifunction operation that writes a register (R536, R538, R540). -/
def mfMul (op : MfMulOp) (p : Pe) (mi : MfMulIn) : MulOut :=
  match op with
  | .mul => multiply ssfr (p.fx (regXm mi.xm)) (p.fx (regYm mi.ym))
  | .mac => multiplyAcc false ssfr p.mrf (p.fx (regXm mi.xm)) (p.fx (regYm mi.ym))
  | .msu => multiplyAcc true ssfr p.mrf (p.fx (regXm mi.xm)) (p.fx (regYm mi.ym))

/-- The ALU half of a fixed-point multifunction operation. -/
def mfAluFix (op : MfFixOp) (env : Env) (p : Pe) (ai : MfAluIn) : AluOut :=
  fixOp2 (mfFix op) env.mode1 (acOf p.astat) (p.fx (regXa ai.xa)) (p.fx (regYa ai.ya))

/-- The floating-point product of a multifunction operation (R541). -/
def mfFmul (env : Env) (p : Pe) (mi : MfMulIn) : FMulOut :=
  fmul env p.rf[regXm mi.xm] p.rf[regYm mi.ym]

/-- The compute operation on an element (R220, R530): every operand is read before anything is written. -/
def evalCompute (c : Compute) (env : Env) (p : Pe) : PeResult :=
  match c with
  | .nop => PeResult.none
  | .fix2 op rn rx ry => aluResult rn (fixOp2 op env.mode1 (acOf p.astat) (p.fx rx) (p.fx ry))
  | .fix1 op rn rx => aluResult rn (fixOp1 op env.mode1 (acOf p.astat) (p.fx rx))
  | .compFix unsigned rx ry => compResult (compareFixed unsigned (p.fx rx) (p.fx ry))
  | .flt2 op rn rx ry => aluResult rn (fltOp2 op env p.rf[rx] p.rf[ry])
  | .flt1 op rn rx => aluResult rn (fltOp1 op env p.rf[rx])
  | .compFlt rx ry => compResult (compareFloat env p.rf[rx] p.rf[ry])
  | .mulRn m rn rx ry => mulToRn rn (isFractional m.format) (multiply m (p.fx rx) (p.fx ry))
  | .mulMr dst m rx ry => mulToMr dst (multiply m (p.fx rx) (p.fx ry))
  | .macRn sub src m rn rx ry =>
    mulToRn rn (isFractional m.format) (multiplyAcc sub m (p.mr src) (p.fx rx) (p.fx ry))
  | .macMr sub acc m rx ry => mulToMr acc (multiplyAcc sub m (p.mr acc) (p.fx rx) (p.fx ry))
  | .satRn src m rn => mulToRn rn m.fractional (saturateMr m (p.mr src))
  | .satMr acc m => mulToMr acc (saturateMr m (p.mr acc))
  | .rndRn src signed rn => mulToRn rn true (roundMr signed (miOf p.astat) (p.mr src))
  | .rndMr acc signed => mulToMr acc (roundMr signed (miOf p.astat) (p.mr acc))
  | .clrMr acc => { PeResult.none with mr := some (acc, 0#80) }
  | .mulFlt rn rx ry => fmulResult rn (fmul env p.rf[rx] p.rf[ry])
  | .putMr bank part rk =>
    { PeResult.none with mr := some (bank, withMrPart (p.mr bank) (p.fx rk) part), mul := some transferFlags }
  | .getMr bank part rk =>
    { PeResult.none with regs := [(rk, toFx (mrPart (p.mr bank) part))], mul := some transferFlags }
  | .shift op rn rx ry => shiftResult rn (shiftOp op env (p.fx rn) (p.fx rx) (p.fx ry).toInt)
  | .btst rx ry => { PeResult.none with shf := some (btstFlags (p.fx rx) (p.fx ry).toInt) }
  | .field op rn rx ry =>
    shiftResult rn
      (fieldOp op (p.fx rn) (p.fx rx) ((p.fx ry).extractLsb' 0 6).toNat ((p.fx ry).extractLsb' 6 6).toNat)
  | .shift1 op rn rx => shiftResult rn (shiftOp1 op env (avOf p.astat) p.rf[rx])
  | .dualFix ra rs rx ry => dualResult ra rs (dualFixed env.mode1 (p.fx rx) (p.fx ry))
  | .dualFlt ra rs rx ry => dualResult ra rs (dualFloat env p.rf[rx] p.rf[ry])
  | .mulAluFix mop aop rm ra mi ai =>
    (mulToRn rm true (mfMul mop p mi)).beside (aluResult ra (mfAluFix aop env p ai))
  | .macAluFix sub aop ra mi ai =>
    (mulToMr .f (multiplyAcc sub ssf p.mrf (p.fx (regXm mi.xm)) (p.fx (regYm mi.ym)))).beside
      (aluResult ra (mfAluFix aop env p ai))
  | .mulAluFlt aop rm ra mi ai =>
    (fmulResult rm (mfFmul env p mi)).beside
      (aluResult ra (fltOp2 (mfFlt aop) env p.rf[regXa ai.xa] p.rf[regYa ai.ya]))
  | .mulAbsFlt rm ra mi xa =>
    (fmulResult rm (mfFmul env p mi)).beside (aluResult ra (fltOp1 .abs env p.rf[regXa xa]))
  | .mulDualFix rs rm ra mi ai =>
    (mulToRn rm true (mfMul .mul p mi)).beside
      (dualResult ra rs (dualFixed env.mode1 (p.fx (regXa ai.xa)) (p.fx (regYa ai.ya))))
  | .mulDualFlt rs rm ra mi ai =>
    (fmulResult rm (mfFmul env p mi)).beside
      (dualResult ra rs (dualFloat env p.rf[regXa ai.xa] p.rf[regYa ai.ya]))

/-- The shifter-immediate operation on an element: the y input is the sign-extended data8, or the bit6, len6 pair
(47_shifter.md R491). -/
def evalShiftImm (sh : ShiftImm) (env : Env) (p : Pe) : PeResult :=
  match sh with
  | .shift op data rn rx => shiftResult rn (shiftOp op env (p.fx rn) (p.fx rx) data.toInt)
  | .btst data rx => { PeResult.none with shf := some (btstFlags (p.fx rx) data.toInt) }
  | .field op bit6 len6 rn rx => shiftResult rn (fieldOp op (p.fx rn) (p.fx rx) bit6.toNat len6.toNat)
  | .shift1 op rn rx => shiftResult rn (shiftOp1 op env (avOf p.astat) p.rf[rx])

/-- The data registers a compute writes. One register named twice makes the instruction write it twice, which is refused
(48_multifunction.md R530, U4). -/
def destRegs : Compute → List RegNum
  | .fix2 _ rn _ _ => [rn]
  | .fix1 _ rn _ => [rn]
  | .flt2 _ rn _ _ => [rn]
  | .flt1 _ rn _ => [rn]
  | .mulRn _ rn _ _ => [rn]
  | .macRn _ _ _ rn _ _ => [rn]
  | .satRn _ _ rn => [rn]
  | .rndRn _ _ rn => [rn]
  | .mulFlt rn _ _ => [rn]
  | .getMr _ _ rk => [rk]
  | .shift _ rn _ _ => [rn]
  | .field _ rn _ _ => [rn]
  | .shift1 _ rn _ => [rn]
  | .dualFix ra rs _ _ => [ra, rs]
  | .dualFlt ra rs _ _ => [ra, rs]
  | .mulAluFix _ _ rm ra _ _ => [rm, ra]
  | .macAluFix _ _ ra _ _ => [ra]
  | .mulAluFlt _ rm ra _ _ => [rm, ra]
  | .mulAbsFlt rm ra _ _ => [rm, ra]
  | .mulDualFix rs rm ra _ _ => [rm, ra, rs]
  | .mulDualFlt rs rm ra _ _ => [rm, ra, rs]
  | .nop | .compFix .. | .compFlt .. | .mulMr .. | .macMr .. | .satMr .. | .rndMr .. | .clrMr .. | .putMr ..
  | .btst .. => []

/-- The data register a shifter-immediate operation writes. -/
def destRegsImm : ShiftImm → List RegNum
  | .shift _ _ rn _ => [rn]
  | .field _ _ _ rn _ => [rn]
  | .shift1 _ rn _ => [rn]
  | .btst .. => []

end Sys2Proof.Machine
end

