-- ==== Sys2Proof/Machine/Ops.lean ====
section
/-! DEFINITION. The named operations over memory, registers, stacks and interrupts, and how the writes of one
instruction are made together (20_memory.md, 10_state.md, 41_program_flow.md R264, 60_exceptions.md). -/

namespace Sys2Proof.Machine

/-! ### Stopping -/

/-- Why an operation does not answer. -/
inductive Stop
  | fault (f : Fault)
  | refuse (r : Refusal)
  deriving DecidableEq, Repr

/-- The answer of an operation, or why there is none. -/
abbrev Run (α : Type) := Except Stop α

/-- The outcome of a step from an answer. -/
def Run.outcome (r : Run State) : Host.Outcome State Fault Refusal :=
  match r with
  | .ok s => .next s
  | .error (.fault f) => .fault f
  | .error (.refuse why) => .refused why

/-- A refusal. -/
def refuse {α : Type} (why : Refusal) : Run α := .error (.refuse why)

/-! ### Memory as bytes (log entries 3 and 4) -/

/-- The byte at a key; an unlisted key reads 0 (log entry 3). -/
def Memory.read (m : Memory) (k : Nat) : BitVec 8 :=
  match m with
  | [] => 0#8
  | (k', v) :: rest => if k = k' then v else Memory.read rest k

/-- The memory with the byte at a key written, in canonical form: keys rising, no byte that is 0. -/
def Memory.write (m : Memory) (k : Nat) (v : BitVec 8) : Memory :=
  match m with
  | [] => if v = 0#8 then [] else [(k, v)]
  | (k', v') :: rest =>
    if k < k' then (if v = 0#8 then (k', v') :: rest else (k, v) :: (k', v') :: rest)
    else if k = k' then (if v = 0#8 then rest else (k, v) :: rest)
    else (k', v') :: Memory.write rest k v

/-- The canonical form: keys strictly rising, no entry equal to what an unlisted key reads as. -/
abbrev Memory.wf (m : Memory) : Prop :=
  m.Pairwise (fun p q => p.1 < q.1) ∧ ∀ p ∈ m, p.2 ≠ 0#8

/-- The key of byte `lane` of the cell at an address (log entry 4): lane 0 holds the most significant byte. Each address
has a cell of its own: no two share storage (R102, the model's choice, log entry 53). -/
def cellKey (a : Word) (lane : Nat) : Nat := 8 * a.toNat + lane

/-- Byte `lane` of a left-justified value. -/
def busByte (v : BusWord) (lane : Nat) : BitVec 8 := v.extractLsb' (56 - 8 * lane) 8

/-- A byte in its lane, zeros elsewhere. -/
def busOfByte (v : BitVec 8) (lane : Nat) : BusWord := v.setWidth 64 <<< (56 - 8 * lane)

/-- The first `lanes` bytes of the cell at an address, left-justified. -/
def Memory.readCell (m : Memory) (a : Word) (lanes : Nat) : BusWord :=
  (List.range lanes).foldl (fun v lane => v ||| busOfByte (m.read (cellKey a lane)) lane) 0#64

/-- The memory with the first `lanes` bytes of the cell at an address written. -/
def Memory.writeCell (m : Memory) (a : Word) (lanes : Nat) (v : BusWord) : Memory :=
  (List.range lanes).foldl (fun m lane => m.write (cellKey a lane) (busByte v lane)) m

/-! ### The memory map (20_memory.md R102) -/

/-- The map entry covers the address. -/
def entryCovers (e : MapEntry) (a : Nat) : Bool := decide (e.base ≤ a ∧ a < e.base + e.size)

/-- What a memory map says of an address: the first entry that covers it (R102). -/
def regionIn (map : List MapEntry) (a : Nat) : Region :=
  match map with
  | [] => .absent
  | e :: rest => if entryCovers e a then e.kind else regionIn rest a

/-- What the memory map says of an address (R102). -/
def State.region (s : State) (a : Word) : Region := regionIn s.params.map a.toNat

/-! ### Values on the bus (10_state.md R34) -/

/-- A 32-bit value, left-justified. -/
def bus32 (v : Word) : BusWord := v ++ 0#32

/-- A 40-bit value, left-justified. -/
def bus40 (v : DataWord) : BusWord := v ++ 0#24

/-- A 24-bit address, zero-extended to 32 bits (R106). -/
def bus24 (v : ProgAddr) : BusWord := bus32 (0#8 ++ v)

/-- What a 32-bit register takes: the most significant 32 bits. -/
def to32 (v : BusWord) : Word := v.extractLsb' 32 32

/-- What a 40-bit register takes: the most significant 40 bits. -/
def to40 (v : BusWord) : DataWord := v.extractLsb' 24 40

/-- What a 24-bit register takes: the low 24 bits of the 32-bit value (R106, R221). -/
def to24 (v : BusWord) : ProgAddr := v.extractLsb' 32 24

/-! ### Elements and modes -/

/-- SIMD mode (R53). -/
def State.simd (s : State) : Bool := peyen s.mode1

/-- An element's registers. -/
def State.pe (s : State) (e : Element) : Pe :=
  match e with
  | .x => s.x
  | .y => s.y

/-- The state with an element's registers replaced. -/
def State.withPe (s : State) (e : Element) (p : Pe) : State :=
  match e with
  | .x => { s with x := p }
  | .y => { s with y := p }

/-- The name of a data register of an element. -/
def dregOf (e : Element) (n : RegNum) : UReg :=
  match e with
  | .x => .r n
  | .y => .s n

/-- The name of an element's ASTAT. -/
def astatOf (e : Element) : SReg :=
  match e with
  | .x => .astatx
  | .y => .astaty

/-- The name of an element's STKY. -/
def stkyOf (e : Element) : SReg :=
  match e with
  | .x => .stkyx
  | .y => .stkyy

/-- What an operation on an element reads beside its registers. -/
def State.env (s : State) (e : Element) : Env := { mode1 := s.mode1, e := e, clock := s.clock }

/-! ### Loop entries (10_state.md R43) -/

/-- The end address of a loop. -/
def LoopEntry.endAddr (e : LoopEntry) : ProgAddr := e.laddr.extractLsb' 0 24

/-- The termination condition of a loop. -/
def LoopEntry.term (e : LoopEntry) : Cond := Cond.ofCode (e.laddr.extractLsb' 24 5)

/-- LADDR of a loop: kind 001 for a counter loop, 000 for a condition loop (log entry 18). -/
def packLaddr (endA : ProgAddr) (term : Cond) : Word :=
  (if term = .lce then 1#3 else 0#3) ++ (term.code ++ endA)

/-! ### Interrupt registers -/

/-- The lowest-numbered set bit (R559, R563). -/
def lowestBit (w : Word) : Option Nat := (List.range 32).find? (fun k => w.getLsbD k)

/-- `current_interrupt ()` (60_exceptions.md R563). -/
def State.currentInterrupt (s : State) : Option Nat := lowestBit s.imaskp

/-- The stack flags of STKYx: PCFL, PCEM, SSOV, SSEM, LSOV, LSEM in bits 21 to 26 (10_state.md R46). No stack of the
model overflows, so SSOV and LSOV read 0. -/
def State.stackFlags (s : State) : Word :=
  bitWord 21 (decide (s.pcStack.length = s.params.pcDepth)) ||| bitWord 22 s.pcStack.isEmpty |||
    bitWord 24 s.sts.isEmpty ||| bitWord 26 s.loops.isEmpty

/-- The bits of STKYx that are stored. -/
def storedSticky : Word := 0xF81FFFFF#32

/-- The MODE2 bits software can write: 31 to 25 are read-only (10_state.md R55). -/
def mode2Writable : Word := 0x01FFFFFF#32

/-- IMASK as a read returns it: while an interrupt is in service, the bits of its priority and below are free
(60_exceptions.md R564, U25). -/
def State.readImask (s : State) : Word :=
  match s.currentInterrupt with
  | none => s.imask
  | some k =>
    let low : Word := BitVec.ofNat 32 (2 ^ k - 1)
    (s.imask &&& low) ||| ((Config.freeWord .imask s.clock).extractLsb' 0 32 &&& ~~~low)

/-- FLAGS as a read returns it: the value of each pin in bits 0 to 3 (10_state.md R58). -/
def State.readFlags (s : State) : Word :=
  setBit (setBit (setBit (setBit s.flags 0 (flagIn s.view 0)) 1 (flagIn s.view 1)) 2 (flagIn s.view 2)) 3
    (flagIn s.view 3)

/-- The instruction at PC and the next one run on to the following addresses (10_state.md R47, log entry 16). -/
def State.inLine (s : State) : Bool :=
  s.straight && s.dbr.isNone &&
    match s.loops with
    | [] => true
    | e :: _ => decide (e.endAddr ≠ s.pc ∧ e.endAddr ≠ s.pc + 1#24)

/-! ### Universal registers (40_compute_move.md R221) -/

/-- IRPTL: the bits the core has set and, of those the parameter names, the bits outside agents have set (R554). -/
def State.irptlWord (s : State) : Word := s.irptl ||| (s.hostIrq &&& s.params.irq.external)

/-- A system register's value as a read returns it. -/
def State.readSReg (s : State) (r : SReg) : Word :=
  match r with
  | .ustat1 => s.ustat1
  | .ustat2 => s.ustat2
  | .mode1 => s.mode1
  | .mmask => s.mmask
  | .mode2 => s.mode2
  | .flags => s.readFlags
  | .astatx => s.x.astat
  | .astaty => s.y.astat
  | .stkyx => (s.x.stky &&& storedSticky) ||| s.stackFlags
  | .stkyy => s.y.stky
  | .irptl => s.irptlWord
  | .imask => s.readImask
  | .imaskp => s.imaskp
  | .lirptl => s.lirptl
  | .ustat3 => s.ustat3
  | .ustat4 => s.ustat4

/-- The state with a system register written (R63); the read-only bits of MODE2 and the computed bits of STKYx keep
their values (R46, R55). FLAGS stores every bit, also that of a flag that is an input, which shows once the pin is made
an output: the model's choice (R58 does not say; log entry 52). Every reserved bit stores what is written and reads it
back: the model's choice, for R12 only tells software to write back what it read (log entry 60). -/
def State.writeSReg (s : State) (r : SReg) (v : Word) : State :=
  match r with
  | .ustat1 => { s with ustat1 := v }
  | .ustat2 => { s with ustat2 := v }
  | .mode1 => { s with mode1 := v }
  | .mmask => { s with mmask := v }
  | .mode2 => { s with mode2 := (v &&& mode2Writable) ||| (s.mode2 &&& ~~~mode2Writable) }
  | .flags => { s with flags := v }
  | .astatx => { s with x := { s.x with astat := v } }
  | .astaty => { s with y := { s.y with astat := v } }
  | .stkyx => { s with x := { s.x with stky := v &&& storedSticky } }
  | .stkyy => { s with y := { s.y with stky := v } }
  | .irptl => { s with irptl := v, hostIrq := 0#32 }
  | .imask => { s with imask := v }
  | .imaskp => { s with imaskp := v }
  | .lirptl => { s with lirptl := v }
  | .ustat3 => { s with ustat3 := v }
  | .ustat4 => { s with ustat4 := v }

/-- `ureg_get`, left-justified (R221): PC reads as this instruction's address, PCSTK, LADDR and CURLCNTR as the top of
their stack, refused on an empty one (U19). -/
def State.readUReg (s : State) (u : UReg) : Run BusWord :=
  match u with
  | .r n => .ok (bus40 s.x.rf[n])
  | .s n => .ok (bus40 s.y.rf[n])
  | .i n => .ok (bus32 s.i[n])
  | .m n => .ok (bus32 s.m[n])
  | .l n => .ok (bus32 s.l[n])
  | .b n => .ok (bus32 s.b[n])
  | .faddr =>
    .ok (bus24 (if s.inLine then s.pc + 2#24 else (Config.freeWord .faddr s.clock).extractLsb' 0 24))
  | .daddr =>
    .ok (bus24 (if s.inLine then s.pc + 1#24 else (Config.freeWord .daddr s.clock).extractLsb' 0 24))
  | .pc => .ok (bus24 s.pc)
  | .pcstk =>
    match s.pcStack with
    | [] => refuse .emptyStackRegister
    | a :: _ => .ok (bus24 a.addr)
  | .pcstkp => .ok (bus32 (BitVec.ofNat 32 s.pcStack.length))
  | .laddr =>
    match s.loops with
    | [] => refuse .emptyStackRegister
    | e :: _ => .ok (bus32 e.laddr)
  | .curlcntr =>
    match s.loops with
    | [] => refuse .emptyStackRegister
    | e :: _ => .ok (bus32 e.count)
  | .lcntr => .ok (bus32 s.lcntr)
  | .emuclk => .ok (bus32 ((Config.freeWord .emuclk s.clock).extractLsb' 0 32))
  | .emuclk2 => .ok (bus32 ((Config.freeWord .emuclk2 s.clock).extractLsb' 0 32))
  | .px => .ok (s.px2 ++ s.px1)
  | .px1 => .ok (bus32 s.px1)
  | .px2 => .ok (bus32 s.px2)
  | .tperiod => .ok (bus32 s.tperiod)
  | .tcount => .ok (bus32 s.tcount)
  | .sys r => .ok (bus32 (s.readSReg r))

/-- What forbids writing a value to a register: a read-only register (U8), an empty stack or PCSTKP (U19), an alternate
bit of MODE1 (U27), IMASK while an interrupt is in service (U25). -/
def State.writeRefusal (s : State) (u : UReg) (v : BusWord) : Option Refusal :=
  match u with
  | .faddr | .daddr | .pc => some .readOnlyRegister
  | .pcstkp => some .emptyStackRegister
  | .pcstk => if s.pcStack.isEmpty then some .emptyStackRegister else none
  | .laddr | .curlcntr => if s.loops.isEmpty then some .emptyStackRegister else none
  | .sys .mode1 => if to32 v &&& alternateBits = 0#32 then none else some .alternateMode
  | .sys .imask => if s.imaskp = 0#32 then none else some .imaskInService
  | .r _ | .i _ | .m _ | .l _ | .b _ | .s _ | .lcntr | .emuclk | .emuclk2 | .px | .px1 | .px2 | .tperiod | .tcount
  | .sys _ => none

/-- The state with a register written from a left-justified value (R221). EMUCLK and EMUCLK2 ignore a write (U10). PX takes
all 64 bits: below a word of 32, 40 or 48 bits they are 0, the model's choice (R109, log entry 58). -/
def State.writeUReg (s : State) (u : UReg) (v : BusWord) : State :=
  match u with
  | .r n => { s with x := { s.x with rf := s.x.rf.set n (to40 v) } }
  | .s n => { s with y := { s.y with rf := s.y.rf.set n (to40 v) } }
  | .i n => { s with i := s.i.set n (to32 v) }
  | .m n => { s with m := s.m.set n (to32 v) }
  | .l n => { s with l := s.l.set n (to32 v) }
  | .b n => { s with b := s.b.set n (to32 v) }
  | .faddr => s
  | .daddr => s
  | .pc => s
  | .pcstk =>
    match s.pcStack with
    | [] => s
    | top :: rest => { s with pcStack := { top with addr := to24 v } :: rest }
  | .pcstkp => s
  | .laddr =>
    match s.loops with
    | [] => s
    | e :: rest => { s with loops := { e with laddr := to32 v } :: rest }
  | .curlcntr =>
    match s.loops with
    | [] => s
    | e :: rest => { s with loops := { e with count := to32 v } :: rest }
  | .lcntr => { s with lcntr := to32 v }
  | .emuclk => s
  | .emuclk2 => s
  | .px => { s with px2 := to32 v, px1 := v.extractLsb' 0 32 }
  | .px1 => { s with px1 := to32 v }
  | .px2 => { s with px2 := to32 v }
  | .tperiod => { s with tperiod := to32 v }
  | .tcount => { s with tcount := to32 v }
  | .sys r => s.writeSReg r (to32 v)

/-- `has_compl` (R33, R221). -/
def hasComplement : UReg → Bool
  | .r _ | .s _ | .px1 | .px2 => true
  | .sys .ustat1 | .sys .ustat2 | .sys .ustat3 | .sys .ustat4 => true
  | .sys .astatx | .sys .astaty | .sys .stkyx | .sys .stkyy => true
  | .sys .mode1 | .sys .mmask | .sys .mode2 | .sys .flags | .sys .irptl | .sys .imask | .sys .imaskp
  | .sys .lirptl => false
  | .i _ | .m _ | .l _ | .b _ | .faddr | .daddr | .pc | .pcstk | .pcstkp | .laddr | .curlcntr | .lcntr | .emuclk
  | .emuclk2 | .px | .tperiod | .tcount => false

/-- The system register a code names for PEy (30_encoding.md R161). -/
def complementSReg : SReg → SReg
  | .ustat1 => .ustat2
  | .ustat2 => .ustat1
  | .ustat3 => .ustat4
  | .ustat4 => .ustat3
  | .astatx => .astaty
  | .astaty => .astatx
  | .stkyx => .stkyy
  | .stkyy => .stkyx
  | .mode1 => .mode1
  | .mmask => .mmask
  | .mode2 => .mode2
  | .flags => .flags
  | .irptl => .irptl
  | .imask => .imask
  | .imaskp => .imaskp
  | .lirptl => .lirptl

/-- The register a code names for PEy: its complement, or itself (30_encoding.md R161). -/
def complement : UReg → UReg
  | .r n => .s n
  | .s n => .r n
  | .px1 => .px2
  | .px2 => .px1
  | .sys r => .sys (complementSReg r)
  | .i n => .i n
  | .m n => .m n
  | .l n => .l n
  | .b n => .b n
  | .faddr => .faddr
  | .daddr => .daddr
  | .pc => .pc
  | .pcstk => .pcstk
  | .pcstkp => .pcstkp
  | .laddr => .laddr
  | .curlcntr => .curlcntr
  | .lcntr => .lcntr
  | .emuclk => .emuclk
  | .emuclk2 => .emuclk2
  | .px => .px
  | .tperiod => .tperiod
  | .tcount => .tcount

/-! ### The writes of one instruction (20_memory.md R125) -/

/-- One write: a universal register, bytes of a memory cell, an address of a device (20_memory.md R122), a compute's
result on an element, or the sticky bit of a wrap of a circular buffer (10_state.md R54, 60_exceptions.md R567). -/
inductive Write
  | reg (u : UReg) (v : BusWord)
  | cell (a : Word) (lanes : Nat) (v : BusWord)
  | device (a : Word)
  | unit (e : Element) (r : PeResult)
  | overflow (k : RegNum)
  deriving DecidableEq, Repr

/-- What a write writes to, for the rule that one instruction writes nothing twice (U4). -/
inductive Place
  | ureg (u : UReg)
  | mr (e : Element) (bank : MrBank)
  | cell (a : Word)
  | overflow (k : RegNum)
  deriving DecidableEq, Repr

/-- The places of a compute's result: its registers, its MR register, ASTAT when it writes flags, STKY when it sets a
sticky bit (log entry 40). -/
def PeResult.places (e : Element) (r : PeResult) : List Place :=
  r.regs.map (fun w => .ureg (dregOf e w.1)) ++ r.mr.toList.map (fun w => .mr e w.1) ++
    (if r.writesFlags then [.ureg (.sys (astatOf e))] else []) ++
    (if r.sticky = 0#32 then [] else [.ureg (.sys (stkyOf e))])

/-- The places of a register: PX is PX1 and PX2 (R38), and STKYx holds the sticky bits of I7 and I15 (R54). -/
def regPlaces (u : UReg) : List Place :=
  match u with
  | .px => [.ureg .px1, .ureg .px2]
  | .sys .stkyx => [.ureg (.sys .stkyx), .overflow 7, .overflow 15]
  | u => [.ureg u]

/-- The places of a write. -/
def Write.places (w : Write) : List Place :=
  match w with
  | .reg u _ => regPlaces u
  | .cell a _ _ => [.cell a]
  | .device a => [.cell a]
  | .unit e r => r.places e
  | .overflow k => [.overflow k]

/-- The sticky bit of a wrap of an index register: CB7S for I7, CB15S for I15, none for another (R54). -/
def overflowBit (k : RegNum) : Word := bitWord 17 (decide (k = 7)) ||| bitWord 18 (decide (k = 15))

/-- The addresses with one more, rising (R127). -/
def insertAddr (a : Word) (l : List Word) : List Word :=
  match l with
  | [] => [a]
  | c :: rest => if a < c then a :: c :: rest else if a = c then c :: rest else c :: insertAddr a rest

/-- The state with one write made. A store makes its address stale for fetching (R127); a store to a device is handed to
the host and leaves the core as it is (R122). -/
def Write.apply (s : State) (w : Write) : State :=
  match w with
  | .reg u v => s.writeUReg u v
  | .cell a lanes v => { s with mem := s.mem.writeCell a lanes v, stale := insertAddr a s.stale }
  | .device _ => s
  | .unit e r => s.withPe e ((s.pe e).apply r)
  | .overflow k => { s with x := { s.x with stky := s.x.stky ||| overflowBit k } }

/-- All writes of an instruction, made together; two to one place are refused (R125, U4). -/
def commit (s : State) (ws : List Write) : Run State :=
  if (ws.flatMap Write.places).Nodup then .ok (ws.foldl Write.apply s) else refuse .doubleWrite

/-- A register write with its refusals. -/
def regWrite (s : State) (u : UReg) (v : BusWord) : Run (List Write) :=
  match s.writeRefusal u v with
  | some why => refuse why
  | none => .ok [.reg u v]

/-! ### Computes -/

/-- The compute on the elements that execute it; the empty compute writes nothing (R178, R220). -/
def computeWrites (s : State) (c : Compute) (ex ey : Bool) : List Write :=
  if c = .nop then []
  else
    (if ex then [.unit .x (evalCompute c (s.env .x) s.x)] else []) ++
      (if ey then [.unit .y (evalCompute c (s.env .y) s.y)] else [])

/-- The shifter-immediate operation on the elements that execute it (R228). -/
def shiftImmWrites (s : State) (sh : ShiftImm) (ex ey : Bool) : List Write :=
  (if ex then [.unit .x (evalShiftImm sh (s.env .x) s.x)] else []) ++
    (if ey then [.unit .y (evalShiftImm sh (s.env .y) s.y)] else [])

/-! ### Conditions of an instruction -/

/-- The truth of a condition on PEx and on PEy. -/
structure CondPair where
  cx : Bool
  cy : Bool
  deriving DecidableEq, Repr

/-- `cx` and `cy` of R220: in SISD mode `cy` counts as false. NOT LCE reads CURLCNTR, which is refused with no loop
(U19). -/
def evalCond (s : State) (c : Cond) : Run CondPair :=
  match c, s.loops with
  | .lce, [] => refuse .emptyStackRegister
  | _, loops =>
    let runs := match loops with
      | [] => false
      | e :: _ => decide (e.count ≠ 1#32)
    .ok ⟨condHolds c s.view runs .x, s.simd && condHolds c s.view runs .y⟩

/-- The sequencer's condition: PEx alone in SISD mode, both in SIMD mode (30_encoding.md R173). -/
def takes (s : State) (p : CondPair) : Bool := p.cx && (!s.simd || p.cy)

/-! ### The stacks (41_program_flow.md R264) -/

/-- `push_pc`. -/
def pushPc (s : State) (source : PcSource) (a : ProgAddr) : Run State :=
  if s.pcStack.length < s.params.pcDepth then .ok { s with pcStack := ⟨a, source⟩ :: s.pcStack }
  else .error (.fault (.stackOverflow .pc))

/-- `pop_pc`: the address and the state after. -/
def popPc (s : State) : Run (ProgAddr × State) :=
  match s.pcStack with
  | [] => .error (.fault (.stackUnderflow .pc))
  | a :: rest => .ok (a.addr, { s with pcStack := rest })

/-- `push_loop`. -/
def pushLoop (s : State) (e : LoopEntry) : Run State :=
  if s.loops.length < s.params.loopDepth then .ok { s with loops := e :: s.loops }
  else .error (.fault (.stackOverflow .loop))

/-- `pop_loop`. -/
def popLoop (s : State) : Run State :=
  match s.loops with
  | [] => .error (.fault (.stackUnderflow .loop))
  | _ :: rest => .ok { s with loops := rest }

/-- MODE1 after a push of the status stack: the bits MMASK names are cleared (60_exceptions.md R558). -/
def maskedMode1 (s : State) : Word :=
  if s.params.irq.mmaskApplies then s.mode1 &&& ~~~s.mmask else s.mode1

/-- `push_sts` and the MMASK step after it (R264, R558). -/
def pushSts (s : State) : Run State :=
  if s.sts.length < s.params.stsDepth then
    .ok { s with sts := ⟨s.mode1, s.x.astat, s.y.astat⟩ :: s.sts, mode1 := maskedMode1 s }
  else .error (.fault (.stackOverflow .status))

/-- `pop_sts`. -/
def popSts (s : State) : Run State :=
  match s.sts with
  | [] => .error (.fault (.stackUnderflow .status))
  | e :: rest =>
    .ok { s with
      sts := rest
      mode1 := e.mode1
      x := { s.x with astat := e.astatx }
      y := { s.y with astat := e.astaty } }

/-- A stack action that is made only when `go`. -/
def whenSet (go : Bool) (act : State → Run State) (s : State) : Run State := if go then act s else .ok s

/-! ### Interrupts (60_exceptions.md) -/

/-- Interrupt `k` pushes the status stack (R553). -/
def pushesStatus (s : State) (k : Nat) : Bool := s.params.irq.pushesStatus.getLsbD k

/-- The vector of interrupt `k` (R553). -/
def vectorOf (s : State) (k : Nat) : ProgAddr := s.params.irq.base + BitVec.ofNat 24 (4 * k)

/-- IRPTL bit `k` is set, by the core or by an outside agent (R554). -/
def State.latched (s : State) (k : Nat) : Bool :=
  s.irptl.getLsbD k || (s.params.irq.external.getLsbD k && s.hostIrq.getLsbD k)

/-- `qualifies (k)` (R561). -/
def qualifies (s : State) (k : Nat) : Bool :=
  (decide (k ≤ 1) || (irpten s.mode1 && s.imask.getLsbD k)) && !s.imaskp.getLsbD k && s.latched k &&
    match s.currentInterrupt with
    | none => true
    | some top => (nestm s.mode1 && decide (k < top)) || decide (k ≤ 1)

/-- The interrupt to take: the lowest that qualifies (R559, R561). -/
def nextInterrupt (s : State) : Option Nat := (List.range 32).find? (fun k => qualifies s k)

/-- TAKING INTERRUPT `k` with next address `n` (R562): leave the idle state, push the return address, push the status
stack if the table says so, mark `k` in service, go to the vector. IRPTL keeps the bit. -/
def takeInterrupt (s : State) (k : Nat) (n : ProgAddr) : Run State := do
  let s ← pushPc { s with idle := false } .call n
  let s ← whenSet (pushesStatus s k) pushSts s
  pure { s with imaskp := setBit s.imaskp k true, pc := vectorOf s k, straight := false }

/-- The current interrupt ends: its IRPTL and IMASKP bits are cleared (R266, R278, R563). -/
def clearInterrupt (s : State) : State :=
  match s.currentInterrupt with
  | none => s
  | some k =>
    { s with
      irptl := setBit s.irptl k false
      hostIrq := setBit s.hostIrq k false
      imaskp := setBit s.imaskp k false }

/-- RETURNING FROM AN INTERRUPT (41_program_flow.md R278): pop the return address, pop the status stack if the current
interrupt pushed it, end the current interrupt. The popped ASTAT replaces whatever the same instruction computed
(decision D45). -/
def returnFromInterrupt (s : State) : Run (ProgAddr × State) := do
  let (t, s) ← popPc s
  let s ← whenSet (s.currentInterrupt.any (pushesStatus s)) popSts s
  pure (t, clearInterrupt s)

/-- Sampling (R561, R572): nothing between a delayed branch and its target; otherwise the lowest qualifying interrupt
is taken, at once or after at most `maxLatency` more sampling points. -/
def sampleInterrupts (s : State) : Run State :=
  if s.dbr.isSome then .ok s
  else
    match nextInterrupt s with
    | none => .ok { s with irqWait := 0 }
    | some k =>
      if decide (s.params.irq.maxLatency ≤ s.irqWait) || Config.freeBit .takeNow s.clock then
        takeInterrupt { s with irqWait := 0 } k s.pc
      else .ok { s with irqWait := s.irqWait + 1 }

/-- The arithmetic requests that follow the sticky bits: FIXI, FLTOI, FLTUI, FLTII in bits 23 to 26 (R566). -/
def arithmeticRequests (s : State) : Word :=
  let st := s.x.stky ||| s.y.stky
  bitWord 23 (st.getLsbD 2 || st.getLsbD 6) ||| bitWord 24 (st.getLsbD 1 || st.getLsbD 7) |||
    bitWord 25 (st.getLsbD 0 || st.getLsbD 8) ||| bitWord 26 (st.getLsbD 5 || st.getLsbD 9)

/-- The requests that are latched: those of an interrupt in service are lost (R554). -/
def newRequests (s : State) (w : Word) : Word := w &&& ~~~s.imaskp

/-- The arithmetic requests, where the parameter has them (R566). -/
def arithmeticLatch (s : State) : Word := if s.params.irq.arithmetic then newRequests s (arithmeticRequests s) else 0#32

/-- The requests latched between two instructions: arithmetic (R566), and whatever outside agents set, of which the bits
the parameter names count (R554, R567). -/
def latchRequests (s : State) : State :=
  { s with
    irptl := s.irptl ||| arithmeticLatch s
    hostIrq := s.hostIrq ||| newRequests s ((Config.freeWord .external s.clock).extractLsb' 0 32) }

/-- TMZHI and TMZLI (R553). -/
def timerBits : Word := 0x00400010#32

/-- One step of the timer, in the idle state too (R575). -/
def tickTimer (s : State) : State :=
  if timen s.mode2 then
    match s.params.timer with
    | .host =>
      { s with
        tcount := (Config.freeWord .timerCount s.clock).extractLsb' 0 32
        irptl := if Config.freeBit .timerLatch s.clock then s.irptl ||| newRequests s timerBits else s.irptl }
    | .steps =>
      if s.tcount = 0#32 then { s with tcount := s.tperiod, irptl := s.irptl ||| newRequests s timerBits }
      else { s with tcount := s.tcount - 1#32 }
  else s

/-! ### Branches (41_program_flow.md R261) -/

/-- DB_SLOTS (R261, decision D13): the instructions executed after a delayed branch. -/
def dbSlots : Nat := 2

/-- A branch request (R260). -/
def requestBranch (s : State) (t : ProgAddr) (delayed loopAbort : Bool) : State :=
  { s with request := some ⟨t, delayed, loopAbort⟩ }

/-- The return address a call at PC pushes: the next instruction, or the one after the delay slots (R268). -/
def returnAddr (s : State) (delayed : Bool) : ProgAddr :=
  s.pc + 1#24 + (if delayed then BitVec.ofNat 24 dbSlots else 0#24)

end Sys2Proof.Machine
end

