-- ==== Sys2Proof/Machine/Operands.lean ====
section
/-! DEFINITION. How an instruction forms a data address, moves a register to or from memory in both elements, and
updates an index register (20_memory.md R108 to R118, 40_compute_move.md R221). -/

namespace Sys2Proof.Machine

/-! ### Index registers -/

/-- The circular buffer of index `k` corrects `I[k] + signed m` (R112). -/
def wraps (s : State) (k : RegNum) (m : Word) : Bool :=
  let a : Int := (s.i[k].toNat : Int) + m.toInt
  let len : Int := s.l[k].toNat
  let base : Int := s.b[k].toNat
  decide (len ≠ 0 ∧ ((0 ≤ m.toInt ∧ base + len ≤ a) ∨ (m.toInt < 0 ∧ a < base)))

/-- `wrap (k, I[k] + signed m)`: the circular buffer, at most one correction (R112). -/
def wrap (s : State) (k : RegNum) (m : Word) : Word :=
  if !wraps s k m then s.i[k] + m
  else if m.toInt < 0 then s.i[k] + m + s.l[k]
  else s.i[k] + m - s.l[k]

/-- `postmod (k, m)`: wrapped when CBUFEN is 1 (R113, R221). -/
def postmod (s : State) (k : RegNum) (m : Word) : Word :=
  if cbufen s.mode1 then wrap s k m else s.i[k] + m

/-- The address of an access by index `k` and modifier `m`: `I` for a post-modify, `I + m`, never wrapped, for a
pre-modify (R110, R113). -/
def indexAddr (s : State) (post : Bool) (k : RegNum) (m : Word) : Word :=
  if post then s.i[k] else s.i[k] + m

/-- The write of an index register. -/
def indexWrite (k : RegNum) (v : Word) : Write := .reg (.i k) (bus32 v)

/-- The writes of an index update: the register and, where the circular buffer wrapped, its sticky bit (R54, R567, log
entry 26). -/
def indexWrites (k : RegNum) (v : Word) (wrapped : Bool) : List Write :=
  indexWrite k v :: if wrapped then [.overflow k] else []

/-- The post-modify of index `k` by `m`, when `go`; it wraps when CBUFEN is 1 (R113). -/
def postmodWrites (s : State) (go : Bool) (k : RegNum) (m : Word) : List Write :=
  if go then indexWrites k (postmod s k m) (cbufen s.mode1 && wraps s k m) else []

/-- The update of index `k` by `m` that MODIFY makes: always with the circular wrap (R113). -/
def modifyWrites (s : State) (k : RegNum) (m : Word) : List Write := indexWrites k (wrap s k m) (wraps s k m)

/-- `rev32` (R114). -/
def rev32 (v : Word) : Word := v.reverse

/-- The modifier register of a DAG named by a field (R143). -/
def modifier (s : State) (g : Dag) (m : Fin 8) : Word := s.m[g.reg m]

/-! ### One cell (R103 to R107, R121, R122) -/

/-- A store of a left-justified value. A device takes the write and the core state is unchanged (R122). Only PX
(`px`) goes to a 48-bit cell (R104, R109). A location the map declares long takes long words only: R108 does not say what
the immediate store of Type 16 does there, which is refused with a LongWordModel too (log entry 57). -/
def storeCell (s : State) (a : Word) (px : Bool) (v : BusWord) : Run (List Write) :=
  match s.region a with
  | .absent => refuse (.unmapped a)
  | .device => .ok [.device a]
  | .word32 => .ok [.cell a 4 v]
  | .word40 => .ok [.cell a 5 v]
  | .word48 => if px then .ok [.cell a 6 v] else refuse (.cellWidth a)
  | .long => refuse .longWord

/-- A load as a left-justified value; a device answers a free value (R122). RFRAME's load from a location the map declares
long is refused with a LongWordModel too (log entry 57). -/
def loadCell (s : State) (a : Word) (px : Bool) : Run BusWord :=
  match s.region a with
  | .absent => refuse (.unmapped a)
  | .device => .ok (Config.freeWord (.device a) s.clock)
  | .word32 => .ok (s.mem.readCell a 4)
  | .word40 => .ok (s.mem.readCell a 5)
  | .word48 => if px then .ok (s.mem.readCell a 6) else refuse (.cellWidth a)
  | .long => refuse .longWord

/-! ### Long words (R108, log entry 20) -/

/-- The even number of a register pair. -/
def evenOf (n : RegNum) : RegNum := ⟨2 * (n.val / 2), by omega⟩

/-- The odd number of a register pair. -/
def oddOf (n : RegNum) : RegNum := ⟨2 * (n.val / 2) + 1, by omega⟩

/-- The register pair a long word access of a register moves: low half, high half. R108 names pairs of data registers;
which other registers have a neighbour is the model's choice (log entry 54). -/
def neighbours : UReg → Option (UReg × UReg)
  | .r n => some (.r (evenOf n), .r (oddOf n))
  | .s n => some (.s (evenOf n), .s (oddOf n))
  | .i n => some (.i (evenOf n), .i (oddOf n))
  | .m n => some (.m (evenOf n), .m (oddOf n))
  | .l n => some (.l (evenOf n), .l (oddOf n))
  | .b n => some (.b (evenOf n), .b (oddOf n))
  | .px | .px1 | .px2 => some (.px1, .px2)
  | .sys .ustat1 | .sys .ustat2 => some (.sys .ustat1, .sys .ustat2)
  | .sys .ustat3 | .sys .ustat4 => some (.sys .ustat3, .sys .ustat4)
  | .faddr | .daddr | .pc | .pcstk | .pcstkp | .laddr | .curlcntr | .lcntr | .emuclk | .emuclk2 | .tperiod | .tcount
  | .sys _ => none

/-- The even address of a pair of 32-bit cells. -/
def evenAddr (a : Word) : Word := a &&& ~~~1#32

/-- The odd address of a pair of 32-bit cells. -/
def oddAddr (a : Word) : Word := a ||| 1#32

/-- A long word stored: one 64-bit location, or the low half at the even and the high half at the odd address of two
32-bit cells. R108 does not say whether the address must be even, nor what a long word does at cells of 40 or 48 bits: an
odd address names the pair it lies in, and the others are refused, the model's choices (log entry 20). -/
def storeLong (s : State) (a : Word) (v : BusWord) : Run (List Write) :=
  match s.region a with
  | .absent => refuse (.unmapped a)
  | .device => .ok [.device a]
  | .long => .ok [.cell a 8 v]
  | .word32 =>
    if s.region (evenAddr a) = .word32 ∧ s.region (oddAddr a) = .word32 then
      .ok [.cell (evenAddr a) 4 (v <<< 32), .cell (oddAddr a) 4 v]
    else refuse (.cellWidth a)
  | .word40 => refuse (.cellWidth a)
  | .word48 => refuse (.cellWidth a)

/-- A long word loaded, from the cells `storeLong` stores to. -/
def loadLong (s : State) (a : Word) : Run BusWord :=
  match s.region a with
  | .absent => refuse (.unmapped a)
  | .device => .ok (Config.freeWord (.device a) s.clock)
  | .long => .ok (s.mem.readCell a 8)
  | .word32 =>
    if s.region (evenAddr a) = .word32 ∧ s.region (oddAddr a) = .word32 then
      .ok (s.mem.readCell (oddAddr a) 4 ||| s.mem.readCell (evenAddr a) 4 >>> 32)
    else refuse (.cellWidth a)
  | .word40 => refuse (.cellWidth a)
  | .word48 => refuse (.cellWidth a)

/-- The access moves a long word: the modifier (LW), or an address the map declares long (R108). -/
def isLong (s : State) (lw : Bool) (a : Word) : Bool := lw || decide (s.region a = .long)

/-- The store of a register pair. -/
def storePair (s : State) (a : Word) (u : UReg) : Run (List Write) :=
  match s.params.longWord, neighbours u with
  | .neighbourPair, some (lo, hi) => do
    let l ← s.readUReg lo
    let h ← s.readUReg hi
    storeLong s a (to32 h ++ to32 l)
  | .absent, _ => refuse .longWord
  | .neighbourPair, none => refuse .longWord

/-- The load of a register pair. -/
def loadPair (s : State) (a : Word) (u : UReg) : Run (List Write) :=
  match s.params.longWord, neighbours u with
  | .neighbourPair, some (lo, hi) => do
    let v ← loadLong s a
    let wl ← regWrite s lo (v <<< 32)
    let wh ← regWrite s hi (bus32 (to32 v))
    pure (wl ++ wh)
  | .absent, _ => refuse .longWord
  | .neighbourPair, none => refuse .longWord

/-! ### One register (R105, R106, R109) -/

/-- A memory transfer that names PX has no model (U13). -/
def pxRefused (s : State) (u : UReg) : Bool := decide (u = .px ∧ s.params.px = .absent)

/-- The store of a register at an address. -/
def storeReg (s : State) (lw : Bool) (a : Word) (u : UReg) : Run (List Write) :=
  if pxRefused s u then refuse .pxMove
  else if isLong s lw a then storePair s a u
  else do
    let v ← s.readUReg u
    storeCell s a (decide (u = .px)) v

/-- The load of a register from an address. -/
def loadReg (s : State) (lw : Bool) (a : Word) (u : UReg) : Run (List Write) :=
  if pxRefused s u then refuse .pxMove
  else if isLong s lw a then loadPair s a u
  else do
    let v ← loadCell s a (decide (u = .px))
    regWrite s u v

/-- The writes of an operation that is made only when `go`. -/
def onlyIf (go : Bool) (r : Run (List Write)) : Run (List Write) :=
  if go then r else .ok []

/-- `broadcast (k)` (R116). -/
def broadcast (s : State) (k : RegNum) : Bool :=
  (decide (k = 1) && bdcst1 s.mode1) || (decide (k = 9) && bdcst9 s.mode1)

/-- The access is made once, not once per element: a register without a complement (R117), or a long word at the address
of the X element (log entries 20 and 59). -/
def madeOnce (s : State) (lw : Bool) (ax : Word) (u : UReg) : Bool := isLong s lw ax || !hasComplement u

/-- The address of the Y element: where a broadcast load reads the same, plus one otherwise (R115, R116). -/
def yAddr (bc : Bool) (ax : Word) : Word := if bc then ax else ax + 1#32

/-- `xfer` (R221): the move of register `u` at `ax` on the elements `ex`, `ey`, indexed by `k`. A move made once runs
if both elements run; in SIMD mode it is refused when they differ (R224, U20). A long word that runs on no element is no
access and is not refused, a broadcast load of a long word loads the named pair only, and the address of the X element
alone says whether the move is made once: the model's choices (log entries 55, 56 and 59). -/
def xfer (s : State) (lw : Bool) (ax : Word) (u : UReg) (store ex ey : Bool) (k : Option RegNum) :
    Run (List Write) :=
  if madeOnce s lw ax u then
    if s.simd && ex != ey then refuse .conditionsDiffer
    else onlyIf ex (if store then storeReg s lw ax u else loadReg s lw ax u)
  else if store then do
    let wx ← onlyIf ex (storeReg s lw ax u)
    let wy ← onlyIf ey (storeReg s lw (yAddr false ax) (complement u))
    pure (wx ++ wy)
  else do
    let bc := k.any (broadcast s)
    let wx ← onlyIf ex (loadReg s lw ax u)
    let wy ← onlyIf (ey || (bc && !s.simd && ex)) (loadReg s lw (yAddr bc ax) (complement u))
    pure (wx ++ wy)

/-- The register belongs to the DAG that forms the address (R130, U5). -/
def sameDag (g : Dag) (u : UReg) : Bool :=
  match u with
  | .i n | .m n | .l n | .b n => decide (n.val < 8) == decide (g = .dm)
  | .r _ | .s _ | .faddr | .daddr | .pc | .pcstk | .pcstkp | .laddr | .curlcntr | .lcntr | .emuclk | .emuclk2
  | .px | .px1 | .px2 | .tperiod | .tcount | .sys _ => false

/-! ### Register to register (R221, R226) -/

/-- The move of a register to another through the left-justified bus. PX moves to and from itself, and by its most
significant part where the parameter says so (U13, log entry 21). -/
def moveReg (s : State) (dst src : UReg) : Run (List Write) :=
  if s.params.px = .absent ∧ (dst = .px ∨ src = .px) ∧ dst ≠ src then refuse .pxMove
  else do
    let v ← s.readUReg src
    regWrite s dst v

end Sys2Proof.Machine
end

