-- ==== Sys2Proof/Machine/ComputeAlone.lean ====
section
/-! DEFINITION. The compute rows of the opcode table, each as the instruction that is this compute alone: the Type 2
word with COND = TRUE (30_encoding.md R146, 40_compute_move.md R223; log entry 44). -/

namespace Sys2Proof.Machine

/-- A compute alone: on PEx, and in SIMD mode on PEy too (R220, R223). -/
def runCompute (s : State) (c : Compute) : Run State := commit s (computeWrites s c true s.simd)

/-! ### Nothing (30_encoding.md R178) -/

/-- `(no compute)` (R178). -/
def execNoCompute (s : State) : Host.Outcome State Fault Refusal :=
  Run.outcome (runCompute s .nop)

/-! ### Fixed-point ALU (44_alu_fixed.md) -/

/-- `Rn = Rx + Ry` (R365). -/
def execAddFix (rn rx ry : RegNum) (s : State) : Host.Outcome State Fault Refusal :=
  Run.outcome (runCompute s (.fix2 .add rn rx ry))

/-- `Rn = Rx - Ry` (R368). -/
def execSubFix (rn rx ry : RegNum) (s : State) : Host.Outcome State Fault Refusal :=
  Run.outcome (runCompute s (.fix2 .sub rn rx ry))

/-- `Rn = Rx + Ry + CI` (R369). -/
def execAddCi (rn rx ry : RegNum) (s : State) : Host.Outcome State Fault Refusal :=
  Run.outcome (runCompute s (.fix2 .addCi rn rx ry))

/-- `Rn = Rx - Ry + CI - 1` (R364). -/
def execSubCi (rn rx ry : RegNum) (s : State) : Host.Outcome State Fault Refusal :=
  Run.outcome (runCompute s (.fix2 .subCi rn rx ry))

/-- `Rn = (Rx + Ry)/2` (R370). -/
def execAvgFix (rn rx ry : RegNum) (s : State) : Host.Outcome State Fault Refusal :=
  Run.outcome (runCompute s (.fix2 .avg rn rx ry))

/-- `COMP(Rx, Ry)` (R366). -/
def execCompFix (rx ry : RegNum) (s : State) : Host.Outcome State Fault Refusal :=
  Run.outcome (runCompute s (.compFix false rx ry))

/-- `COMPU(Rx, Ry)` (R367). -/
def execCompuFix (rx ry : RegNum) (s : State) : Host.Outcome State Fault Refusal :=
  Run.outcome (runCompute s (.compFix true rx ry))

/-- `Rn = Rx + CI` (R371). -/
def execIncCi (rn rx : RegNum) (s : State) : Host.Outcome State Fault Refusal :=
  Run.outcome (runCompute s (.fix1 .incCi rn rx))

/-- `Rn = Rx + CI - 1` (R372). -/
def execDecCi (rn rx : RegNum) (s : State) : Host.Outcome State Fault Refusal :=
  Run.outcome (runCompute s (.fix1 .decCi rn rx))

/-- `Rn = Rx + 1` (R373). -/
def execIncFix (rn rx : RegNum) (s : State) : Host.Outcome State Fault Refusal :=
  Run.outcome (runCompute s (.fix1 .inc rn rx))

/-- `Rn = Rx - 1` (R374). -/
def execDecFix (rn rx : RegNum) (s : State) : Host.Outcome State Fault Refusal :=
  Run.outcome (runCompute s (.fix1 .dec rn rx))

/-- `Rn = -Rx` (R375). -/
def execNegFix (rn rx : RegNum) (s : State) : Host.Outcome State Fault Refusal :=
  Run.outcome (runCompute s (.fix1 .neg rn rx))

/-- `Rn = ABS Rx` (R376). -/
def execAbsFix (rn rx : RegNum) (s : State) : Host.Outcome State Fault Refusal :=
  Run.outcome (runCompute s (.fix1 .abs rn rx))

/-- `Rn = PASS Rx` (R377). -/
def execPassFix (rn rx : RegNum) (s : State) : Host.Outcome State Fault Refusal :=
  Run.outcome (runCompute s (.fix1 .pass rn rx))

/-- `Rn = Rx AND Ry` (R378). -/
def execAndFix (rn rx ry : RegNum) (s : State) : Host.Outcome State Fault Refusal :=
  Run.outcome (runCompute s (.fix2 .and rn rx ry))

/-- `Rn = Rx OR Ry` (R379). -/
def execOrFix (rn rx ry : RegNum) (s : State) : Host.Outcome State Fault Refusal :=
  Run.outcome (runCompute s (.fix2 .or rn rx ry))

/-- `Rn = Rx XOR Ry` (R380). -/
def execXorFix (rn rx ry : RegNum) (s : State) : Host.Outcome State Fault Refusal :=
  Run.outcome (runCompute s (.fix2 .xor rn rx ry))

/-- `Rn = NOT Rx` (R381). -/
def execNotFix (rn rx : RegNum) (s : State) : Host.Outcome State Fault Refusal :=
  Run.outcome (runCompute s (.fix1 .not rn rx))

/-- `Rn = MIN(Rx, Ry)` (R382). -/
def execMinFix (rn rx ry : RegNum) (s : State) : Host.Outcome State Fault Refusal :=
  Run.outcome (runCompute s (.fix2 .min rn rx ry))

/-- `Rn = MAX(Rx, Ry)` (R383). -/
def execMaxFix (rn rx ry : RegNum) (s : State) : Host.Outcome State Fault Refusal :=
  Run.outcome (runCompute s (.fix2 .max rn rx ry))

/-- `Rn = CLIP Rx BY Ry` (R384). -/
def execClipFix (rn rx ry : RegNum) (s : State) : Host.Outcome State Fault Refusal :=
  Run.outcome (runCompute s (.fix2 .clip rn rx ry))

/-! ### Floating-point ALU (45_alu_float.md) -/

/-- `Fn = Fx + Fy` (R405). -/
def execAddFlt (rn rx ry : RegNum) (s : State) : Host.Outcome State Fault Refusal :=
  Run.outcome (runCompute s (.flt2 .add rn rx ry))

/-- `Fn = Fx - Fy` (R406). -/
def execSubFlt (rn rx ry : RegNum) (s : State) : Host.Outcome State Fault Refusal :=
  Run.outcome (runCompute s (.flt2 .sub rn rx ry))

/-- `Fn = ABS (Fx + Fy)` (R407). -/
def execAbsAddFlt (rn rx ry : RegNum) (s : State) : Host.Outcome State Fault Refusal :=
  Run.outcome (runCompute s (.flt2 .absAdd rn rx ry))

/-- `Fn = ABS (Fx - Fy)` (R408). -/
def execAbsSubFlt (rn rx ry : RegNum) (s : State) : Host.Outcome State Fault Refusal :=
  Run.outcome (runCompute s (.flt2 .absSub rn rx ry))

/-- `Fn = (Fx + Fy)/2` (R409). -/
def execAvgFlt (rn rx ry : RegNum) (s : State) : Host.Outcome State Fault Refusal :=
  Run.outcome (runCompute s (.flt2 .avg rn rx ry))

/-- `COMP(Fx, Fy)` (R410). -/
def execCompFlt (rx ry : RegNum) (s : State) : Host.Outcome State Fault Refusal :=
  Run.outcome (runCompute s (.compFlt rx ry))

/-- `Fn = -Fx` (R411). -/
def execNegFlt (rn rx : RegNum) (s : State) : Host.Outcome State Fault Refusal :=
  Run.outcome (runCompute s (.flt1 .neg rn rx))

/-- `Fn = ABS Fx` (R412). -/
def execAbsFlt (rn rx : RegNum) (s : State) : Host.Outcome State Fault Refusal :=
  Run.outcome (runCompute s (.flt1 .abs rn rx))

/-- `Fn = PASS Fx` (R413). -/
def execPassFlt (rn rx : RegNum) (s : State) : Host.Outcome State Fault Refusal :=
  Run.outcome (runCompute s (.flt1 .pass rn rx))

/-- `Fn = RND Fx` (R414). -/
def execRndFlt (rn rx : RegNum) (s : State) : Host.Outcome State Fault Refusal :=
  Run.outcome (runCompute s (.flt1 .rnd rn rx))

/-- `Fn = SCALB Fx BY Ry` (R415). -/
def execScalb (rn rx ry : RegNum) (s : State) : Host.Outcome State Fault Refusal :=
  Run.outcome (runCompute s (.flt2 .scalb rn rx ry))

/-- `Rn = MANT Fx` (R416). -/
def execMant (rn rx : RegNum) (s : State) : Host.Outcome State Fault Refusal :=
  Run.outcome (runCompute s (.flt1 .mant rn rx))

/-- `Rn = LOGB Fx` (R417). -/
def execLogb (rn rx : RegNum) (s : State) : Host.Outcome State Fault Refusal :=
  Run.outcome (runCompute s (.flt1 .logb rn rx))

/-- `Rn = FIX Fx` (R419). -/
def execFix (rn rx : RegNum) (s : State) : Host.Outcome State Fault Refusal :=
  Run.outcome (runCompute s (.flt1 .fix rn rx))

/-- `Rn = FIX Fx BY Ry` (R420). -/
def execFixBy (rn rx ry : RegNum) (s : State) : Host.Outcome State Fault Refusal :=
  Run.outcome (runCompute s (.flt2 .fixBy rn rx ry))

/-- `Rn = TRUNC Fx` (R421). -/
def execTrunc (rn rx : RegNum) (s : State) : Host.Outcome State Fault Refusal :=
  Run.outcome (runCompute s (.flt1 .trunc rn rx))

/-- `Rn = TRUNC Fx BY Ry` (R422). -/
def execTruncBy (rn rx ry : RegNum) (s : State) : Host.Outcome State Fault Refusal :=
  Run.outcome (runCompute s (.flt2 .truncBy rn rx ry))

/-- `Fn = FLOAT Rx BY Ry` (R423). -/
def execFloatBy (rn rx ry : RegNum) (s : State) : Host.Outcome State Fault Refusal :=
  Run.outcome (runCompute s (.flt2 .floatBy rn rx ry))

/-- `Fn = FLOAT Rx` (R424). -/
def execFloat (rn rx : RegNum) (s : State) : Host.Outcome State Fault Refusal :=
  Run.outcome (runCompute s (.flt1 .float rn rx))

/-- `Fn = RECIPS Fx` (R425). -/
def execRecips (rn rx : RegNum) (s : State) : Host.Outcome State Fault Refusal :=
  Run.outcome (runCompute s (.flt1 .recips rn rx))

/-- `Fn = RSQRTS Fx` (R426). -/
def execRsqrts (rn rx : RegNum) (s : State) : Host.Outcome State Fault Refusal :=
  Run.outcome (runCompute s (.flt1 .rsqrts rn rx))

/-- `Fn = Fx COPYSIGN Fy` (R427). -/
def execCopysign (rn rx ry : RegNum) (s : State) : Host.Outcome State Fault Refusal :=
  Run.outcome (runCompute s (.flt2 .copysign rn rx ry))

/-- `Fn = MIN(Fx, Fy)` (R428). -/
def execMinFlt (rn rx ry : RegNum) (s : State) : Host.Outcome State Fault Refusal :=
  Run.outcome (runCompute s (.flt2 .min rn rx ry))

/-- `Fn = MAX(Fx, Fy)` (R429). -/
def execMaxFlt (rn rx ry : RegNum) (s : State) : Host.Outcome State Fault Refusal :=
  Run.outcome (runCompute s (.flt2 .max rn rx ry))

/-- `Fn = CLIP Fx BY Fy` (R430). -/
def execClipFlt (rn rx ry : RegNum) (s : State) : Host.Outcome State Fault Refusal :=
  Run.outcome (runCompute s (.flt2 .clip rn rx ry))

/-! ### Multiplier (46_multiplier.md) -/

/-- `Rn = Rx * Ry mod2` (R456). -/
def execMulRn (m : Mod2) (rn rx ry : RegNum) (s : State) : Host.Outcome State Fault Refusal :=
  Run.outcome (runCompute s (.mulRn m rn rx ry))

/-- `MRF = Rx * Ry mod2` (R457). -/
def execMulMrf (m : Mod2) (rx ry : RegNum) (s : State) : Host.Outcome State Fault Refusal :=
  Run.outcome (runCompute s (.mulMr .f m rx ry))

/-- `MRB = Rx * Ry mod2` (R458). -/
def execMulMrb (m : Mod2) (rx ry : RegNum) (s : State) : Host.Outcome State Fault Refusal :=
  Run.outcome (runCompute s (.mulMr .b m rx ry))

/-- `Rn = MRF + Rx * Ry mod2` (R459). -/
def execMacRnMrf (m : Mod2) (rn rx ry : RegNum) (s : State) : Host.Outcome State Fault Refusal :=
  Run.outcome (runCompute s (.macRn false .f m rn rx ry))

/-- `Rn = MRB + Rx * Ry mod2` (R460). -/
def execMacRnMrb (m : Mod2) (rn rx ry : RegNum) (s : State) : Host.Outcome State Fault Refusal :=
  Run.outcome (runCompute s (.macRn false .b m rn rx ry))

/-- `MRF = MRF + Rx * Ry mod2` (R461). -/
def execMacMrf (m : Mod2) (rx ry : RegNum) (s : State) : Host.Outcome State Fault Refusal :=
  Run.outcome (runCompute s (.macMr false .f m rx ry))

/-- `MRB = MRB + Rx * Ry mod2` (R462). -/
def execMacMrb (m : Mod2) (rx ry : RegNum) (s : State) : Host.Outcome State Fault Refusal :=
  Run.outcome (runCompute s (.macMr false .b m rx ry))

/-- `Rn = MRF - Rx * Ry mod2` (R463). -/
def execMsuRnMrf (m : Mod2) (rn rx ry : RegNum) (s : State) : Host.Outcome State Fault Refusal :=
  Run.outcome (runCompute s (.macRn true .f m rn rx ry))

/-- `Rn = MRB - Rx * Ry mod2` (R464). -/
def execMsuRnMrb (m : Mod2) (rn rx ry : RegNum) (s : State) : Host.Outcome State Fault Refusal :=
  Run.outcome (runCompute s (.macRn true .b m rn rx ry))

/-- `MRF = MRF - Rx * Ry mod2` (R465). -/
def execMsuMrf (m : Mod2) (rx ry : RegNum) (s : State) : Host.Outcome State Fault Refusal :=
  Run.outcome (runCompute s (.macMr true .f m rx ry))

/-- `MRB = MRB - Rx * Ry mod2` (R466). -/
def execMsuMrb (m : Mod2) (rx ry : RegNum) (s : State) : Host.Outcome State Fault Refusal :=
  Run.outcome (runCompute s (.macMr true .b m rx ry))

/-- `Rn = SAT MRF mod1` (R474). -/
def execSatRnMrf (m : Mod1) (rn : RegNum) (s : State) : Host.Outcome State Fault Refusal :=
  Run.outcome (runCompute s (.satRn .f m rn))

/-- `Rn = SAT MRB mod1` (R475). -/
def execSatRnMrb (m : Mod1) (rn : RegNum) (s : State) : Host.Outcome State Fault Refusal :=
  Run.outcome (runCompute s (.satRn .b m rn))

/-- `MRF = SAT MRF mod1` (R476). -/
def execSatMrf (m : Mod1) (s : State) : Host.Outcome State Fault Refusal :=
  Run.outcome (runCompute s (.satMr .f m))

/-- `MRB = SAT MRB mod1` (R477). -/
def execSatMrb (m : Mod1) (s : State) : Host.Outcome State Fault Refusal :=
  Run.outcome (runCompute s (.satMr .b m))

/-- `Rn = RND MRF mod1` (R478). -/
def execRndRnMrf (signed : Bool) (rn : RegNum) (s : State) : Host.Outcome State Fault Refusal :=
  Run.outcome (runCompute s (.rndRn .f signed rn))

/-- `Rn = RND MRB mod1` (R479). -/
def execRndRnMrb (signed : Bool) (rn : RegNum) (s : State) : Host.Outcome State Fault Refusal :=
  Run.outcome (runCompute s (.rndRn .b signed rn))

/-- `MRF = RND MRF mod1` (R480). -/
def execRndMrf (signed : Bool) (s : State) : Host.Outcome State Fault Refusal :=
  Run.outcome (runCompute s (.rndMr .f signed))

/-- `MRB = RND MRB mod1` (R481). -/
def execRndMrb (signed : Bool) (s : State) : Host.Outcome State Fault Refusal :=
  Run.outcome (runCompute s (.rndMr .b signed))

/-- `MRF = 0` (R482). -/
def execClrMrf (s : State) : Host.Outcome State Fault Refusal :=
  Run.outcome (runCompute s (.clrMr .f))

/-- `MRB = 0` (R483). -/
def execClrMrb (s : State) : Host.Outcome State Fault Refusal :=
  Run.outcome (runCompute s (.clrMr .b))

/-- `Fn = Fx * Fy` (R484). -/
def execMulFlt (rn rx ry : RegNum) (s : State) : Host.Outcome State Fault Refusal :=
  Run.outcome (runCompute s (.mulFlt rn rx ry))

/-- `MR0F = Rn` (R471). -/
def execPutMr0f (rk : RegNum) (s : State) : Host.Outcome State Fault Refusal :=
  Run.outcome (runCompute s (.putMr .f .mr0 rk))

/-- `MR1F = Rn` (R471). -/
def execPutMr1f (rk : RegNum) (s : State) : Host.Outcome State Fault Refusal :=
  Run.outcome (runCompute s (.putMr .f .mr1 rk))

/-- `MR2F = Rn` (R471). -/
def execPutMr2f (rk : RegNum) (s : State) : Host.Outcome State Fault Refusal :=
  Run.outcome (runCompute s (.putMr .f .mr2 rk))

/-- `MR0B = Rn` (R471). -/
def execPutMr0b (rk : RegNum) (s : State) : Host.Outcome State Fault Refusal :=
  Run.outcome (runCompute s (.putMr .b .mr0 rk))

/-- `MR1B = Rn` (R471). -/
def execPutMr1b (rk : RegNum) (s : State) : Host.Outcome State Fault Refusal :=
  Run.outcome (runCompute s (.putMr .b .mr1 rk))

/-- `MR2B = Rn` (R471). -/
def execPutMr2b (rk : RegNum) (s : State) : Host.Outcome State Fault Refusal :=
  Run.outcome (runCompute s (.putMr .b .mr2 rk))

/-- `Rn = MR0F` (R472). -/
def execGetMr0f (rk : RegNum) (s : State) : Host.Outcome State Fault Refusal :=
  Run.outcome (runCompute s (.getMr .f .mr0 rk))

/-- `Rn = MR1F` (R472). -/
def execGetMr1f (rk : RegNum) (s : State) : Host.Outcome State Fault Refusal :=
  Run.outcome (runCompute s (.getMr .f .mr1 rk))

/-- `Rn = MR2F` (R472). -/
def execGetMr2f (rk : RegNum) (s : State) : Host.Outcome State Fault Refusal :=
  Run.outcome (runCompute s (.getMr .f .mr2 rk))

/-- `Rn = MR0B` (R472). -/
def execGetMr0b (rk : RegNum) (s : State) : Host.Outcome State Fault Refusal :=
  Run.outcome (runCompute s (.getMr .b .mr0 rk))

/-- `Rn = MR1B` (R472). -/
def execGetMr1b (rk : RegNum) (s : State) : Host.Outcome State Fault Refusal :=
  Run.outcome (runCompute s (.getMr .b .mr1 rk))

/-- `Rn = MR2B` (R472). -/
def execGetMr2b (rk : RegNum) (s : State) : Host.Outcome State Fault Refusal :=
  Run.outcome (runCompute s (.getMr .b .mr2 rk))

/-! ### Shifter (47_shifter.md) -/

/-- `Rn = LSHIFT Rx BY Ry|<data8>` (R492). -/
def execLshift (rn rx ry : RegNum) (s : State) : Host.Outcome State Fault Refusal :=
  Run.outcome (runCompute s (.shift .lshift rn rx ry))

/-- `Rn = Rn OR LSHIFT Rx BY Ry|<data8>` (R493). -/
def execOrLshift (rn rx ry : RegNum) (s : State) : Host.Outcome State Fault Refusal :=
  Run.outcome (runCompute s (.shift .orLshift rn rx ry))

/-- `Rn = ASHIFT Rx BY Ry|<data8>` (R494). -/
def execAshift (rn rx ry : RegNum) (s : State) : Host.Outcome State Fault Refusal :=
  Run.outcome (runCompute s (.shift .ashift rn rx ry))

/-- `Rn = Rn OR ASHIFT Rx BY Ry|<data8>` (R495). -/
def execOrAshift (rn rx ry : RegNum) (s : State) : Host.Outcome State Fault Refusal :=
  Run.outcome (runCompute s (.shift .orAshift rn rx ry))

/-- `Rn = ROT Rx BY Ry|<data8>` (R496). -/
def execRot (rn rx ry : RegNum) (s : State) : Host.Outcome State Fault Refusal :=
  Run.outcome (runCompute s (.shift .rot rn rx ry))

/-- `Rn = BCLR Rx BY Ry|<data8>` (R497). -/
def execBclr (rn rx ry : RegNum) (s : State) : Host.Outcome State Fault Refusal :=
  Run.outcome (runCompute s (.shift .bclr rn rx ry))

/-- `Rn = BSET Rx BY Ry|<data8>` (R498). -/
def execBset (rn rx ry : RegNum) (s : State) : Host.Outcome State Fault Refusal :=
  Run.outcome (runCompute s (.shift .bset rn rx ry))

/-- `Rn = BTGL Rx BY Ry|<data8>` (R499). -/
def execBtgl (rn rx ry : RegNum) (s : State) : Host.Outcome State Fault Refusal :=
  Run.outcome (runCompute s (.shift .btgl rn rx ry))

/-- `BTST Rx BY Ry|<data8>` (R500). -/
def execBtst (rx ry : RegNum) (s : State) : Host.Outcome State Fault Refusal :=
  Run.outcome (runCompute s (.btst rx ry))

/-- `Rn = FDEP Rx BY Ry|<bit6>:<len6>` (R502). -/
def execFdep (rn rx ry : RegNum) (s : State) : Host.Outcome State Fault Refusal :=
  Run.outcome (runCompute s (.field .fdep rn rx ry))

/-- `Rn = Rn OR FDEP Rx BY Ry|<bit6>:<len6>` (R503). -/
def execOrFdep (rn rx ry : RegNum) (s : State) : Host.Outcome State Fault Refusal :=
  Run.outcome (runCompute s (.field .orFdep rn rx ry))

/-- `Rn = FDEP Rx BY Ry|<bit6>:<len6> (SE)` (R504). -/
def execFdepSe (rn rx ry : RegNum) (s : State) : Host.Outcome State Fault Refusal :=
  Run.outcome (runCompute s (.field .fdepSe rn rx ry))

/-- `Rn = Rn OR FDEP Rx BY Ry|<bit6>:<len6> (SE)` (R505). -/
def execOrFdepSe (rn rx ry : RegNum) (s : State) : Host.Outcome State Fault Refusal :=
  Run.outcome (runCompute s (.field .orFdepSe rn rx ry))

/-- `Rn = FEXT Rx BY Ry|<bit6>:<len6>` (R506). -/
def execFext (rn rx ry : RegNum) (s : State) : Host.Outcome State Fault Refusal :=
  Run.outcome (runCompute s (.field .fext rn rx ry))

/-- `Rn = FEXT Rx BY Ry|<bit6>:<len6> (SE)` (R507). -/
def execFextSe (rn rx ry : RegNum) (s : State) : Host.Outcome State Fault Refusal :=
  Run.outcome (runCompute s (.field .fextSe rn rx ry))

/-- `Rn = EXP Rx` (R508). -/
def execExp (rn rx : RegNum) (s : State) : Host.Outcome State Fault Refusal :=
  Run.outcome (runCompute s (.shift1 .exp rn rx))

/-- `Rn = EXP Rx (EX)` (R509). -/
def execExpEx (rn rx : RegNum) (s : State) : Host.Outcome State Fault Refusal :=
  Run.outcome (runCompute s (.shift1 .expEx rn rx))

/-- `Rn = LEFTZ Rx` (R510). -/
def execLeftz (rn rx : RegNum) (s : State) : Host.Outcome State Fault Refusal :=
  Run.outcome (runCompute s (.shift1 .leftz rn rx))

/-- `Rn = LEFTO Rx` (R511). -/
def execLefto (rn rx : RegNum) (s : State) : Host.Outcome State Fault Refusal :=
  Run.outcome (runCompute s (.shift1 .lefto rn rx))

/-- `Rn = FPACK Fx` (R512). -/
def execFpack (rn rx : RegNum) (s : State) : Host.Outcome State Fault Refusal :=
  Run.outcome (runCompute s (.shift1 .fpack rn rx))

/-- `Fn = FUNPACK Rx` (R513). -/
def execFunpack (rn rx : RegNum) (s : State) : Host.Outcome State Fault Refusal :=
  Run.outcome (runCompute s (.shift1 .funpack rn rx))

/-! ### Multifunction (48_multifunction.md) -/

/-- `Ra = Rx + Ry, Rs = Rx - Ry` (R532). -/
def execDualFix (ra rs rx ry : RegNum) (s : State) : Host.Outcome State Fault Refusal :=
  Run.outcome (runCompute s (.dualFix ra rs rx ry))

/-- `Fa = Fx + Fy, Fs = Fx - Fy` (R533). -/
def execDualFlt (ra rs rx ry : RegNum) (s : State) : Host.Outcome State Fault Refusal :=
  Run.outcome (runCompute s (.dualFlt ra rs rx ry))

/-- `Rm = R3-0 * R7-4 (SSFR), Ra = R11-8 + R15-12` (R536). -/
def execMulRnAdd (rm ra : RegNum) (mi : MfMulIn) (ai : MfAluIn) (s : State) : Host.Outcome State Fault Refusal :=
  Run.outcome (runCompute s (.mulAluFix .mul .add rm ra mi ai))

/-- `Rm = R3-0 * R7-4 (SSFR), Ra = R11-8 - R15-12` (R536). -/
def execMulRnSub (rm ra : RegNum) (mi : MfMulIn) (ai : MfAluIn) (s : State) : Host.Outcome State Fault Refusal :=
  Run.outcome (runCompute s (.mulAluFix .mul .sub rm ra mi ai))

/-- `Rm = R3-0 * R7-4 (SSFR), Ra = (R11-8 + R15-12)/2` (R536). -/
def execMulRnAvg (rm ra : RegNum) (mi : MfMulIn) (ai : MfAluIn) (s : State) : Host.Outcome State Fault Refusal :=
  Run.outcome (runCompute s (.mulAluFix .mul .avg rm ra mi ai))

/-- `MRF = MRF + R3-0 * R7-4 (SSF), Ra = R11-8 + R15-12` (R537). -/
def execMacMrfAdd (ra : RegNum) (mi : MfMulIn) (ai : MfAluIn) (s : State) : Host.Outcome State Fault Refusal :=
  Run.outcome (runCompute s (.macAluFix false .add ra mi ai))

/-- `MRF = MRF + R3-0 * R7-4 (SSF), Ra = R11-8 - R15-12` (R537). -/
def execMacMrfSub (ra : RegNum) (mi : MfMulIn) (ai : MfAluIn) (s : State) : Host.Outcome State Fault Refusal :=
  Run.outcome (runCompute s (.macAluFix false .sub ra mi ai))

/-- `MRF = MRF + R3-0 * R7-4 (SSF), Ra = (R11-8 + R15-12)/2` (R537). -/
def execMacMrfAvg (ra : RegNum) (mi : MfMulIn) (ai : MfAluIn) (s : State) : Host.Outcome State Fault Refusal :=
  Run.outcome (runCompute s (.macAluFix false .avg ra mi ai))

/-- `Rm = MRF + R3-0 * R7-4 (SSFR), Ra = R11-8 + R15-12` (R538). -/
def execMacRnAdd (rm ra : RegNum) (mi : MfMulIn) (ai : MfAluIn) (s : State) : Host.Outcome State Fault Refusal :=
  Run.outcome (runCompute s (.mulAluFix .mac .add rm ra mi ai))

/-- `Rm = MRF + R3-0 * R7-4 (SSFR), Ra = R11-8 - R15-12` (R538). -/
def execMacRnSub (rm ra : RegNum) (mi : MfMulIn) (ai : MfAluIn) (s : State) : Host.Outcome State Fault Refusal :=
  Run.outcome (runCompute s (.mulAluFix .mac .sub rm ra mi ai))

/-- `Rm = MRF + R3-0 * R7-4 (SSFR), Ra = (R11-8 + R15-12)/2` (R538). -/
def execMacRnAvg (rm ra : RegNum) (mi : MfMulIn) (ai : MfAluIn) (s : State) : Host.Outcome State Fault Refusal :=
  Run.outcome (runCompute s (.mulAluFix .mac .avg rm ra mi ai))

/-- `MRF = MRF - R3-0 * R7-4 (SSF), Ra = R11-8 + R15-12` (R539). -/
def execMsuMrfAdd (ra : RegNum) (mi : MfMulIn) (ai : MfAluIn) (s : State) : Host.Outcome State Fault Refusal :=
  Run.outcome (runCompute s (.macAluFix true .add ra mi ai))

/-- `MRF = MRF - R3-0 * R7-4 (SSF), Ra = R11-8 - R15-12` (R539). -/
def execMsuMrfSub (ra : RegNum) (mi : MfMulIn) (ai : MfAluIn) (s : State) : Host.Outcome State Fault Refusal :=
  Run.outcome (runCompute s (.macAluFix true .sub ra mi ai))

/-- `MRF = MRF - R3-0 * R7-4 (SSF), Ra = (R11-8 + R15-12)/2` (R539). -/
def execMsuMrfAvg (ra : RegNum) (mi : MfMulIn) (ai : MfAluIn) (s : State) : Host.Outcome State Fault Refusal :=
  Run.outcome (runCompute s (.macAluFix true .avg ra mi ai))

/-- `Rm = MRF - R3-0 * R7-4 (SSFR), Ra = R11-8 + R15-12` (R540). -/
def execMsuRnAdd (rm ra : RegNum) (mi : MfMulIn) (ai : MfAluIn) (s : State) : Host.Outcome State Fault Refusal :=
  Run.outcome (runCompute s (.mulAluFix .msu .add rm ra mi ai))

/-- `Rm = MRF - R3-0 * R7-4 (SSFR), Ra = R11-8 - R15-12` (R540). -/
def execMsuRnSub (rm ra : RegNum) (mi : MfMulIn) (ai : MfAluIn) (s : State) : Host.Outcome State Fault Refusal :=
  Run.outcome (runCompute s (.mulAluFix .msu .sub rm ra mi ai))

/-- `Rm = MRF - R3-0 * R7-4 (SSFR), Ra = (R11-8 + R15-12)/2` (R540). -/
def execMsuRnAvg (rm ra : RegNum) (mi : MfMulIn) (ai : MfAluIn) (s : State) : Host.Outcome State Fault Refusal :=
  Run.outcome (runCompute s (.mulAluFix .msu .avg rm ra mi ai))

/-- `Fm = F3-0 * F7-4, Fa = F11-8 + F15-12` (R541). -/
def execFmulAdd (rm ra : RegNum) (mi : MfMulIn) (ai : MfAluIn) (s : State) : Host.Outcome State Fault Refusal :=
  Run.outcome (runCompute s (.mulAluFlt .add rm ra mi ai))

/-- `Fm = F3-0 * F7-4, Fa = F11-8 - F15-12` (R541). -/
def execFmulSub (rm ra : RegNum) (mi : MfMulIn) (ai : MfAluIn) (s : State) : Host.Outcome State Fault Refusal :=
  Run.outcome (runCompute s (.mulAluFlt .sub rm ra mi ai))

/-- `Fm = F3-0 * F7-4, Fa = FLOAT R11-8 BY R15-12` (R541). -/
def execFmulFloat (rm ra : RegNum) (mi : MfMulIn) (ai : MfAluIn) (s : State) : Host.Outcome State Fault Refusal :=
  Run.outcome (runCompute s (.mulAluFlt .float rm ra mi ai))

/-- `Fm = F3-0 * F7-4, Fa = FIX F11-8 BY R15-12` (R541). -/
def execFmulFix (rm ra : RegNum) (mi : MfMulIn) (ai : MfAluIn) (s : State) : Host.Outcome State Fault Refusal :=
  Run.outcome (runCompute s (.mulAluFlt .fix rm ra mi ai))

/-- `Fm = F3-0 * F7-4, Fa = ABS F11-8` (R541). -/
def execFmulAbs (rm ra : RegNum) (mi : MfMulIn) (xa : Fin 4) (s : State) : Host.Outcome State Fault Refusal :=
  Run.outcome (runCompute s (.mulAbsFlt rm ra mi xa))

/-- `Fm = F3-0 * F7-4, Fa = MAX(F11-8, F15-12)` (R541). -/
def execFmulMax (rm ra : RegNum) (mi : MfMulIn) (ai : MfAluIn) (s : State) : Host.Outcome State Fault Refusal :=
  Run.outcome (runCompute s (.mulAluFlt .max rm ra mi ai))

/-- `Fm = F3-0 * F7-4, Fa = MIN(F11-8, F15-12)` (R541). -/
def execFmulMin (rm ra : RegNum) (mi : MfMulIn) (ai : MfAluIn) (s : State) : Host.Outcome State Fault Refusal :=
  Run.outcome (runCompute s (.mulAluFlt .min rm ra mi ai))

/-- `Rm = R3-0 * R7-4 (SSFR), Ra = R11-8 + R15-12, Rs = R11-8 - R15-12` (R543). -/
def execMulDualFix (rs rm ra : RegNum) (mi : MfMulIn) (ai : MfAluIn) (s : State) : Host.Outcome State Fault Refusal :=
  Run.outcome (runCompute s (.mulDualFix rs rm ra mi ai))

/-- `Fm = F3-0 * F7-4, Fa = F11-8 + F15-12, Fs = F11-8 - F15-12` (R544). -/
def execMulDualFlt (rs rm ra : RegNum) (mi : MfMulIn) (ai : MfAluIn) (s : State) : Host.Outcome State Fault Refusal :=
  Run.outcome (runCompute s (.mulDualFlt rs rm ra mi ai))

end Sys2Proof.Machine
end

