-- ==== Sys2Proof/Machine/ComputeMove.lean ====
section
/-! DEFINITION. The compute and move instructions, Types 1 to 7 (40_compute_move.md). -/

namespace Sys2Proof.Machine

/-- Type 1 (R222): a compute with one DM and one PM transfer, both post-modified. -/
def execDualMove (c : Compute) (dm pm : DregMove) (s : State) : Host.Outcome State Fault Refusal :=
  Run.outcome do
    let ka := Dag.dm.reg dm.i
    let kc := Dag.pm.reg pm.i
    let wd ← xfer s false s.i[ka] (.r dm.reg) dm.store true s.simd (some ka)
    let wp ← xfer s false s.i[kc] (.r pm.reg) pm.store true s.simd (some kc)
    commit s (computeWrites s c true s.simd ++ wd ++ wp ++ postmodWrites s true ka (modifier s .dm dm.m) ++
      postmodWrites s true kc (modifier s .pm pm.m))

/-- Type 2 with a condition (R223). -/
def execIfCompute (cond : Cond) (c : Compute) (s : State) : Host.Outcome State Fault Refusal :=
  Run.outcome do
    if c = .nop then pure s
    else
      let p ← evalCond s cond
      commit s (computeWrites s c p.cx p.cy)

/-- Type 3 (R224): a universal register to or from memory by an index and a modifier register. -/
def execUregMove (cond : Cond) (c : Compute) (g : Dag) (post : Bool) (i m : Fin 8) (store long : Bool) (u : UReg)
    (s : State) : Host.Outcome State Fault Refusal :=
  Run.outcome do
    if sameDag g u then refuse .sameDag
    else
      let p ← evalCond s cond
      let k := g.reg i
      let mm := modifier s g m
      let w ← xfer s long (indexAddr s post k mm) u store p.cx p.cy (some k)
      commit s (computeWrites s c p.cx p.cy ++ w ++ postmodWrites s (post && (p.cx || p.cy)) k mm)

/-- Type 4 (R225): a data register to or from memory by an index and a 6-bit modifier. -/
def execDregMoveImm (cond : Cond) (c : Compute) (g : Dag) (post : Bool) (i : Fin 8) (data : BitVec 6) (store : Bool)
    (reg : RegNum) (s : State) : Host.Outcome State Fault Refusal :=
  Run.outcome do
    let p ← evalCond s cond
    let k := g.reg i
    let mm : Word := data.signExtend 32
    let w ← xfer s false (indexAddr s post k mm) (.r reg) store p.cx p.cy (some k)
    commit s (computeWrites s c p.cx p.cy ++ w ++ postmodWrites s (post && (p.cx || p.cy)) k mm)

/-- The move of Type 5a (R226): per element into a register with a complement, once when both elements run into one
without. -/
def uregTransfer (s : State) (p : CondPair) (dst src : UReg) : Run (List Write) :=
  if hasComplement dst then do
    let wx ← onlyIf p.cx (moveReg s dst src)
    let wy ← onlyIf p.cy (moveReg s (complement dst) (complement src))
    pure (wx ++ wy)
  else onlyIf (takes s p) (moveReg s dst src)

/-- Type 5a (R226): a universal register to a universal register. -/
def execUregToUreg (cond : Cond) (c : Compute) (dst src : UReg) (s : State) : Host.Outcome State Fault Refusal :=
  Run.outcome do
    let p ← evalCond s cond
    let w ← uregTransfer s p dst src
    commit s (computeWrites s c p.cx p.cy ++ w)

/-- The two writes of a swap (R227). -/
def swapWrites (s : State) (go : Bool) (xreg yreg : RegNum) : List Write :=
  if go then [.reg (.r xreg) (bus40 s.y.rf[yreg]), .reg (.s yreg) (bus40 s.x.rf[xreg])] else []

/-- Type 5b (R227): a swap between the elements. -/
def execSwap (cond : Cond) (c : Compute) (xreg yreg : RegNum) (s : State) : Host.Outcome State Fault Refusal :=
  Run.outcome do
    let p ← evalCond s cond
    commit s (computeWrites s c p.cx p.cy ++ swapWrites s (takes s p) xreg yreg)

/-- Type 6a (R228): an immediate shift with a post-modified transfer. -/
def execShiftImmMove (cond : Cond) (sh : ShiftImm) (g : Dag) (move : DregMove) (s : State) :
    Host.Outcome State Fault Refusal :=
  Run.outcome do
    let p ← evalCond s cond
    let k := g.reg move.i
    let w ← xfer s false s.i[k] (.r move.reg) move.store p.cx p.cy (some k)
    commit s (shiftImmWrites s sh p.cx p.cy ++ w ++ postmodWrites s (p.cx || p.cy) k (modifier s g move.m))

/-- Type 6b (R229): an immediate shift. -/
def execShiftImm (cond : Cond) (sh : ShiftImm) (s : State) : Host.Outcome State Fault Refusal :=
  Run.outcome do
    let p ← evalCond s cond
    commit s (shiftImmWrites s sh p.cx p.cy)

/-- Type 7 (R230): an index register modified, always with the circular wrap (R113). -/
def execModifyReg (cond : Cond) (c : Compute) (g : Dag) (i m : Fin 8) (s : State) :
    Host.Outcome State Fault Refusal :=
  Run.outcome do
    let p ← evalCond s cond
    let k := g.reg i
    let w := if p.cx || p.cy then modifyWrites s k (modifier s g m) else []
    commit s (computeWrites s c p.cx p.cy ++ w)

end Sys2Proof.Machine
end

