-- ==== Sys2Proof/Machine/Flow.lean ====
section
/-! DEFINITION. The program flow instructions, Types 8 to 13 (41_program_flow.md). A meaning leaves PC where it is and
asks for its branch in `request`; the sequencer (Machine/Sequencer.lean, R260) chooses the next PC. -/

namespace Sys2Proof.Machine

/-! ### Targets (R262) -/

/-- A PC-relative target. -/
def relTarget (s : State) (rel : BitVec 24) : ProgAddr := s.pc + rel

/-- A PC-relative target of 6 bits. -/
def relTarget6 (s : State) (rel : BitVec 6) : ProgAddr := s.pc + rel.signExtend 24

/-- An indirect target: `(I + M)[23:0]` of DAG2. -/
def indirectTarget (s : State) (i m : Fin 8) : ProgAddr :=
  (s.i[Dag.pm.reg i] + modifier s .pm m).extractLsb' 0 24

/-! ### Shared operations -/

/-- The compute part of Types 9 and 11: on the elements where the condition is true, or with ELSE where it is false
(R263). -/
def elseWrites (s : State) (p : CondPair) (else_ : Bool) (c : Compute) : List Write :=
  computeWrites s c (p.cx != else_) (s.simd && p.cy != else_)

/-- The pops of (LA): the innermost loop's entries (R265). -/
def abortLoop (s : State) : Run State := do
  let s ← popLoop s
  let (_, s) ← popPc s
  pure s

/-- A taken jump (R265 to R267): (CI), then the branch; the pops of (LA) come with the transfer, now or after the
slots. -/
def jumpTo (s : State) (mods : JumpMods) (t : ProgAddr) : Run State :=
  let s := if mods.clearInterrupt then clearInterrupt s else s
  if mods.loopAbort && !mods.delayed then do
    let s ← abortLoop s
    pure (requestBranch s t false false)
  else .ok (requestBranch s t mods.delayed mods.loopAbort)

/-- A taken call (R268). -/
def callTo (s : State) (delayed : Bool) (t : ProgAddr) : Run State := do
  let s ← pushPc s .call (returnAddr s delayed)
  pure (requestBranch s t delayed false)

/-- Address `a` is one of the last three of the loop (R279, R282). -/
def nearEnd (e : LoopEntry) (a : ProgAddr) : Bool :=
  decide (a = e.endAddr ∨ a + 1#24 = e.endAddr ∨ a + 2#24 = e.endAddr)

/-- Address `a` is one of the last three of the innermost loop. -/
def nearLoopEnd (s : State) (a : ProgAddr) : Bool :=
  match s.loops with
  | [] => false
  | e :: _ => nearEnd e a

/-- A taken RTS, with the loop reentry check (R277, R279). -/
def returnTo (s : State) (delayed lr : Bool) : Run State := do
  let (t, s) ← popPc s
  if nearLoopEnd s t && !delayed && !lr then refuse .loopReentry
  else pure (requestBranch s t delayed false)

/-- A taken RTI (R278). -/
def interruptReturn (s : State) (delayed : Bool) : Run State := do
  let (t, s) ← returnFromInterrupt s
  pure (requestBranch s t delayed false)

/-- What forbids a loop from here to `e` (R280, R282, U22): an end below the first body address, an end another loop
has, a place in the last three of an enclosing loop. -/
def loopForbidden (s : State) (rel : BitVec 24) : Bool :=
  decide (rel.toInt < 1) || s.loops.any (fun e => decide (e.endAddr = s.pc + rel)) ||
    s.loops.any (fun e => nearEnd e s.pc)

/-- The set-up of a loop (R280, R283). -/
def setUpLoop (s : State) (term : Cond) (rel : BitVec 24) : Run State :=
  if loopForbidden s rel then refuse .loopEnd
  else do
    let s ← pushPc s (.loop s.clock) (s.pc + 1#24)
    pushLoop s ⟨packLaddr (s.pc + rel) term, s.lcntr, some ⟨s.clock, s.pc + 1#24⟩⟩

/-! ### Type 8 -/

/-- `JUMP <addr24>` (R267). -/
def execJumpAbs (cond : Cond) (mods : JumpMods) (addr : ProgAddr) (s : State) : Host.Outcome State Fault Refusal :=
  Run.outcome do
    let p ← evalCond s cond
    if takes s p then jumpTo s mods addr else pure s

/-- `JUMP (PC, <reladdr24>)` (R269). -/
def execJumpRel (cond : Cond) (mods : JumpMods) (rel : BitVec 24) (s : State) : Host.Outcome State Fault Refusal :=
  Run.outcome do
    let p ← evalCond s cond
    if takes s p then jumpTo s mods (relTarget s rel) else pure s

/-- `CALL <addr24>` (R268). -/
def execCallAbs (cond : Cond) (delayed : Bool) (addr : ProgAddr) (s : State) : Host.Outcome State Fault Refusal :=
  Run.outcome do
    let p ← evalCond s cond
    if takes s p then callTo s delayed addr else pure s

/-- `CALL (PC, <reladdr24>)` (R270). -/
def execCallRel (cond : Cond) (delayed : Bool) (rel : BitVec 24) (s : State) : Host.Outcome State Fault Refusal :=
  Run.outcome do
    let p ← evalCond s cond
    if takes s p then callTo s delayed (relTarget s rel) else pure s

/-! ### Type 9 -/

/-- `JUMP (Md, Ic)` with compute (R271). -/
def execJumpInd (cond : Cond) (mods : JumpMods) (else_ : Bool) (i m : Fin 8) (c : Compute) (s : State) :
    Host.Outcome State Fault Refusal :=
  Run.outcome do
    let p ← evalCond s cond
    let t ← commit s (elseWrites s p else_ c)
    if takes s p then jumpTo t mods (indirectTarget s i m) else pure t

/-- `JUMP (PC, <reladdr6>)` with compute (R273). -/
def execJumpRel6 (cond : Cond) (mods : JumpMods) (else_ : Bool) (rel : BitVec 6) (c : Compute) (s : State) :
    Host.Outcome State Fault Refusal :=
  Run.outcome do
    let p ← evalCond s cond
    let t ← commit s (elseWrites s p else_ c)
    if takes s p then jumpTo t mods (relTarget6 s rel) else pure t

/-- `CALL (Md, Ic)` with compute (R272). -/
def execCallInd (cond : Cond) (delayed else_ : Bool) (i m : Fin 8) (c : Compute) (s : State) :
    Host.Outcome State Fault Refusal :=
  Run.outcome do
    let p ← evalCond s cond
    let t ← commit s (elseWrites s p else_ c)
    if takes s p then callTo t delayed (indirectTarget s i m) else pure t

/-- `CALL (PC, <reladdr6>)` with compute (R274). -/
def execCallRel6 (cond : Cond) (delayed else_ : Bool) (rel : BitVec 6) (c : Compute) (s : State) :
    Host.Outcome State Fault Refusal :=
  Run.outcome do
    let p ← evalCond s cond
    let t ← commit s (elseWrites s p else_ c)
    if takes s p then callTo t delayed (relTarget6 s rel) else pure t

/-! ### Type 10 -/

/-- A jump, or else a compute with a data memory transfer, on the elements where the condition is false (R275). -/
def jumpElseMove (s : State) (p : CondPair) (t : ProgAddr) (c : Compute) (move : DregMove) : Run State := do
  let nx := !p.cx
  let ny := s.simd && !p.cy
  let k := Dag.dm.reg move.i
  let w ← xfer s false s.i[k] (.r move.reg) move.store nx ny (some k)
  let s' ← commit s (computeWrites s c nx ny ++ w ++ postmodWrites s (nx || ny) k (modifier s .dm move.m))
  pure (if takes s p then requestBranch s' t false false else s')

/-- `JUMP (Md, Ic), ELSE compute, move` (R275). -/
def execJumpIndElse (cond : Cond) (i m : Fin 8) (c : Compute) (move : DregMove) (s : State) :
    Host.Outcome State Fault Refusal :=
  Run.outcome do
    let p ← evalCond s cond
    jumpElseMove s p (indirectTarget s i m) c move

/-- `JUMP (PC, <reladdr6>), ELSE compute, move` (R276). -/
def execJumpRelElse (cond : Cond) (rel : BitVec 6) (c : Compute) (move : DregMove) (s : State) :
    Host.Outcome State Fault Refusal :=
  Run.outcome do
    let p ← evalCond s cond
    jumpElseMove s p (relTarget6 s rel) c move

/-! ### Type 11 -/

/-- `RTS` with compute (R277). -/
def execRts (cond : Cond) (delayed else_ lr : Bool) (c : Compute) (s : State) : Host.Outcome State Fault Refusal :=
  Run.outcome do
    let p ← evalCond s cond
    let t ← commit s (elseWrites s p else_ c)
    if takes s p then returnTo t delayed lr else pure t

/-- `RTI` with compute (R278). -/
def execRti (cond : Cond) (delayed else_ : Bool) (c : Compute) (s : State) : Host.Outcome State Fault Refusal :=
  Run.outcome do
    let p ← evalCond s cond
    let t ← commit s (elseWrites s p else_ c)
    if takes s p then interruptReturn t delayed else pure t

/-! ### Types 12 and 13 -/

/-- `LCNTR = <data16>, DO (PC, <reladdr24>) UNTIL LCE` (R280). -/
def execDoCountImm (count : BitVec 16) (rel : BitVec 24) (s : State) : Host.Outcome State Fault Refusal :=
  Run.outcome (setUpLoop { s with lcntr := count.setWidth 32 } .lce rel)

/-- `LCNTR = ureg, DO (PC, <reladdr24>) UNTIL LCE` (R281). -/
def execDoCountReg (u : UReg) (rel : BitVec 24) (s : State) : Host.Outcome State Fault Refusal :=
  Run.outcome do
    if u = .px then refuse .pxMove
    else
      let v ← s.readUReg u
      setUpLoop { s with lcntr := to32 v } .lce rel

/-- `DO (PC, <reladdr24>) UNTIL termination` (R283). -/
def execDoUntil (term : Cond) (rel : BitVec 24) (s : State) : Host.Outcome State Fault Refusal :=
  Run.outcome (setUpLoop s term rel)

end Sys2Proof.Machine
end

