-- ==== Sys2Proof/Machine/ImmMove.lean ====
section
/-! DEFINITION. The immediate move instructions, Types 14 to 17 (42_immediate_move.md). -/

namespace Sys2Proof.Machine

/-- Type 14 (R311, R312): direct addressing; any register may move, no index is used. -/
def directMove (s : State) (long store : Bool) (u : UReg) (addr : Word) : Run State := do
  let w ← xfer s long addr u store true s.simd none
  commit s w

/-- Type 15 (R313, R314): `I + data`, the index not updated. -/
def indexedMove (s : State) (g : Dag) (i : Fin 8) (long store : Bool) (u : UReg) (data : Word) : Run State :=
  if sameDag g u then refuse .sameDag
  else do
    let k := g.reg i
    let w ← xfer s long (s.i[k] + data) u store true s.simd (some k)
    commit s w

/-- `DM(<addr32>) = ureg`, `PM(<addr32>) = ureg` (R311). Both spaces are one store (R100). -/
def execStoreDirect (_g : Dag) (long : Bool) (u : UReg) (addr : Word) (s : State) :
    Host.Outcome State Fault Refusal :=
  Run.outcome (directMove s long true u addr)

/-- `ureg = DM(<addr32>)`, `ureg = PM(<addr32>)` (R312). -/
def execLoadDirect (_g : Dag) (long : Bool) (u : UReg) (addr : Word) (s : State) :
    Host.Outcome State Fault Refusal :=
  Run.outcome (directMove s long false u addr)

/-- `DM(<data32>, Ia) = ureg`, `PM(<data32>, Ic) = ureg` (R313). -/
def execStoreIndexed (g : Dag) (i : Fin 8) (long : Bool) (u : UReg) (data : Word) (s : State) :
    Host.Outcome State Fault Refusal :=
  Run.outcome (indexedMove s g i long true u data)

/-- `ureg = DM(<data32>, Ia)`, `ureg = PM(<data32>, Ic)` (R314). -/
def execLoadIndexed (g : Dag) (i : Fin 8) (long : Bool) (u : UReg) (data : Word) (s : State) :
    Host.Outcome State Fault Refusal :=
  Run.outcome (indexedMove s g i long false u data)

/-- `DM(Ia, Mb) = <data32>`, `PM(Ic, Md) = <data32>` (R107, R315): both cells in SIMD mode. -/
def execStoreImm (g : Dag) (i m : Fin 8) (data : Word) (s : State) : Host.Outcome State Fault Refusal :=
  Run.outcome do
    let k := g.reg i
    let wx ← storeCell s s.i[k] false (bus32 data)
    let wy ← onlyIf s.simd (storeCell s (s.i[k] + 1#32) false (bus32 data))
    commit s (wx ++ wy ++ postmodWrites s true k (modifier s g m))

/-- `ureg = <data32>` (R316): in SIMD mode the complement too. -/
def execLoadImm (u : UReg) (data : Word) (s : State) : Host.Outcome State Fault Refusal :=
  Run.outcome do
    if u = .px then refuse .pxMove
    else
      let wx ← regWrite s u (bus32 data)
      let wy ← onlyIf (s.simd && hasComplement u) (regWrite s (complement u) (bus32 data))
      commit s (wx ++ wy)

end Sys2Proof.Machine
end

