-- ==== Sys2Proof/Machine/Misc.lean ====
section
/-! DEFINITION. The miscellaneous instructions, Types 18 to 22 and 25 (43_misc.md). -/

namespace Sys2Proof.Machine

/-! ### Type 18 (R330) -/

/-- A system register and in SIMD mode its complement, if it is another register, changed by `f` (R330). -/
def bitChange (s : State) (reg : SReg) (f : Word → Word) : Run State := do
  let wx ← regWrite s (.sys reg) (bus32 (f (s.readSReg reg)))
  let wy ← onlyIf (s.simd && hasComplement (.sys reg))
    (regWrite s (.sys (complementSReg reg)) (bus32 (f (s.readSReg (complementSReg reg)))))
  commit s (wx ++ wy)

/-- BTF of ASTATx from a test of the register, and in SIMD mode BTF of ASTATy from a test of the register PEy sees
(R334, R335). -/
def bitTest (s : State) (reg : SReg) (test : Word → Bool) : Run State :=
  commit s
    (.reg (.sys .astatx) (bus32 (withBtf s.x.astat (test (s.readSReg reg)))) ::
      if s.simd then [.reg (.sys .astaty) (bus32 (withBtf s.y.astat (test (s.readSReg (complementSReg reg)))))]
      else [])

/-- `BIT SET` (R331). -/
def execBitSet (reg : SReg) (data : Word) (s : State) : Host.Outcome State Fault Refusal :=
  Run.outcome (bitChange s reg (fun v => v ||| data))

/-- `BIT CLR` (R332). -/
def execBitClr (reg : SReg) (data : Word) (s : State) : Host.Outcome State Fault Refusal :=
  Run.outcome (bitChange s reg (fun v => v &&& ~~~data))

/-- `BIT TGL` (R333). -/
def execBitTgl (reg : SReg) (data : Word) (s : State) : Host.Outcome State Fault Refusal :=
  Run.outcome (bitChange s reg (fun v => v ^^^ data))

/-- `BIT TST` (R334). -/
def execBitTst (reg : SReg) (data : Word) (s : State) : Host.Outcome State Fault Refusal :=
  Run.outcome (bitTest s reg (fun v => decide (v &&& data = data)))

/-- `BIT XOR`: a compare for equality (R335). -/
def execBitXor (reg : SReg) (data : Word) (s : State) : Host.Outcome State Fault Refusal :=
  Run.outcome (bitTest s reg (fun v => decide (v = data)))

/-! ### Type 19 -/

/-- `MODIFY (Ia, <data32>)`, always with the circular wrap (R336). -/
def execModifyImm (g : Dag) (i : Fin 8) (data : Word) (s : State) : Host.Outcome State Fault Refusal :=
  Run.outcome (commit s (modifyWrites s (g.reg i) data))

/-- `BITREV (Ia, <data32>)` (R337). -/
def execBitrev (g : Dag) (i : Fin 8) (data : Word) (s : State) : Host.Outcome State Fault Refusal :=
  Run.outcome (commit s (indexWrites (g.reg i) (rev32 (wrap s (g.reg i) data)) (wraps s (g.reg i) data)))

/-! ### Type 20 (R338) -/

/-- `FLUSH CACHE`: the stale set is emptied (R343). -/
def flushIf (s : State) (go : Bool) : State := if go then { s with stale := [] } else s

/-- `PUSH PCSTK`: the new entry is a free value (R339, log entry 15). -/
def pushFreePc (s : State) : Run State :=
  pushPc s .software ((Config.freeWord .pcEntry s.clock).extractLsb' 0 24)

/-- `PUSH LOOP`: LADDR is 0, the counter entry is a free value (R340, log entry 15). -/
def pushFreeLoop (s : State) : Run State :=
  pushLoop s ⟨0#32, (Config.freeWord .countEntry s.clock).extractLsb' 0 32, none⟩

/-- A pop of the PC stack that drops the address (R345). -/
def dropPc (s : State) : Run State := do
  let (_, s) ← popPc s
  pure s

/-- `PUSH PCSTK` (R339). -/
def execPushPcstk (flushes : Bool) (s : State) : Host.Outcome State Fault Refusal :=
  Run.outcome do
    let s ← pushFreePc s
    pure (flushIf s flushes)

/-- `PUSH LOOP`, with the other pushes the word asks for (R338, R340). -/
def execPushLoop (sts pcstk flushes : Bool) (s : State) : Host.Outcome State Fault Refusal :=
  Run.outcome do
    let s ← pushFreeLoop s
    let s ← whenSet sts pushSts s
    let s ← whenSet pcstk pushFreePc s
    pure (flushIf s flushes)

/-- `PUSH STS`, with PUSH PCSTK if the word asks for it (R338, R341). -/
def execPushSts (pcstk flushes : Bool) (s : State) : Host.Outcome State Fault Refusal :=
  Run.outcome do
    let s ← pushSts s
    let s ← whenSet pcstk pushFreePc s
    pure (flushIf s flushes)

/-- `POP LOOP`, with the other pops the word asks for (R338, R342). -/
def execPopLoop (sts pcstk flushes : Bool) (s : State) : Host.Outcome State Fault Refusal :=
  Run.outcome do
    let s ← popLoop s
    let s ← whenSet sts popSts s
    let s ← whenSet pcstk dropPc s
    pure (flushIf s flushes)

/-- `POP STS`, with POP PCSTK if the word asks for it (R338, R344). -/
def execPopSts (pcstk flushes : Bool) (s : State) : Host.Outcome State Fault Refusal :=
  Run.outcome do
    let s ← popSts s
    let s ← whenSet pcstk dropPc s
    pure (flushIf s flushes)

/-- `POP PCSTK` (R345). -/
def execPopPcstk (flushes : Bool) (s : State) : Host.Outcome State Fault Refusal :=
  Run.outcome do
    let s ← dropPc s
    pure (flushIf s flushes)

/-- `FLUSH CACHE` alone (R343). -/
def execFlushCache (s : State) : Host.Outcome State Fault Refusal := .next (flushIf s true)

/-- A Type 20 word with no action (R338). -/
def execStackNone (s : State) : Host.Outcome State Fault Refusal := .next s

/-! ### Types 21 and 22 -/

/-- `NOP` (R350). -/
def execNop (s : State) : Host.Outcome State Fault Refusal := .next s

/-- `IDLE` (R346): the step leaves the state idle until an interrupt is taken. -/
def execIdle (s : State) : Host.Outcome State Fault Refusal := .next { s with idle := true }

/-! ### Type 25 -/

/-- `CJUMP` (R347): R2, and S2 in SIMD mode, takes I6; I6 takes I7; the branch is delayed. -/
def cjump (s : State) (t : ProgAddr) : Run State := do
  let s' ← commit s
    (.reg (.r 2) (bus32 s.i[6]) :: (if s.simd then [.reg (.s 2) (bus32 s.i[6])] else []) ++ [indexWrite 6 s.i[7]])
  pure (requestBranch s' t true false)

/-- `CJUMP <addr24> (DB)` (R347). -/
def execCjumpAbs (addr : ProgAddr) (s : State) : Host.Outcome State Fault Refusal :=
  Run.outcome (cjump s addr)

/-- `CJUMP (PC, <reladdr24>) (DB)` (R348). -/
def execCjumpRel (rel : BitVec 24) (s : State) : Host.Outcome State Fault Refusal :=
  Run.outcome (cjump s (s.pc + rel))

/-- The value RFRAME loads: the cell at I6; in SIMD mode either the cell at I6 or the next, not said which (R349, U24,
log entry 33). -/
def frameValue (s : State) : Run Word := do
  let v ← loadCell s s.i[6] false
  if s.simd then
    let w ← loadCell s (s.i[6] + 1#32) false
    pure (to32 (if Config.freeBit .rframe s.clock then w else v))
  else pure (to32 v)

/-- `RFRAME` (R349): I7 takes I6, I6 takes the loaded value. -/
def execRframe (s : State) : Host.Outcome State Fault Refusal :=
  Run.outcome do
    let v ← frameValue s
    commit s [indexWrite 7 s.i[6], indexWrite 6 v]

end Sys2Proof.Machine
end

