-- ==== Sys2Proof/Machine/Dispatch.lean ====
section
/-! DEFINITION. The one dispatch from an instruction to its meaning. -/

namespace Sys2Proof.Machine

/-- The meaning of each instruction. -/
def exec (i : Instr) (s : State) : Host.Outcome State Fault Refusal :=
  match i with
  | .dualMove c dm pm => Sys2Proof.Machine.execDualMove c dm pm s
  | .ifCompute cond c => Sys2Proof.Machine.execIfCompute cond c s
  | .uregMove cond c g post idx m store long u => Sys2Proof.Machine.execUregMove cond c g post idx m store long u s
  | .dregMoveImm cond c g post idx data store reg => Sys2Proof.Machine.execDregMoveImm cond c g post idx data store reg s
  | .uregToUreg cond c dst src => Sys2Proof.Machine.execUregToUreg cond c dst src s
  | .swap cond c xreg yreg => Sys2Proof.Machine.execSwap cond c xreg yreg s
  | .shiftImmMove cond sh g move => Sys2Proof.Machine.execShiftImmMove cond sh g move s
  | .shiftImm cond sh => Sys2Proof.Machine.execShiftImm cond sh s
  | .modifyReg cond c g idx m => Sys2Proof.Machine.execModifyReg cond c g idx m s
  | .jumpAbs cond mods addr => Sys2Proof.Machine.execJumpAbs cond mods addr s
  | .jumpRel cond mods rel => Sys2Proof.Machine.execJumpRel cond mods rel s
  | .callAbs cond delayed addr => Sys2Proof.Machine.execCallAbs cond delayed addr s
  | .callRel cond delayed rel => Sys2Proof.Machine.execCallRel cond delayed rel s
  | .jumpInd cond mods else_ idx m c => Sys2Proof.Machine.execJumpInd cond mods else_ idx m c s
  | .jumpRel6 cond mods else_ rel c => Sys2Proof.Machine.execJumpRel6 cond mods else_ rel c s
  | .callInd cond delayed else_ idx m c => Sys2Proof.Machine.execCallInd cond delayed else_ idx m c s
  | .callRel6 cond delayed else_ rel c => Sys2Proof.Machine.execCallRel6 cond delayed else_ rel c s
  | .jumpIndElse cond idx m c move => Sys2Proof.Machine.execJumpIndElse cond idx m c move s
  | .jumpRelElse cond rel c move => Sys2Proof.Machine.execJumpRelElse cond rel c move s
  | .rts cond delayed else_ lr c => Sys2Proof.Machine.execRts cond delayed else_ lr c s
  | .rti cond delayed else_ c => Sys2Proof.Machine.execRti cond delayed else_ c s
  | .doCountImm count rel => Sys2Proof.Machine.execDoCountImm count rel s
  | .doCountReg u rel => Sys2Proof.Machine.execDoCountReg u rel s
  | .doUntil term rel => Sys2Proof.Machine.execDoUntil term rel s
  | .storeDirect g long u addr => Sys2Proof.Machine.execStoreDirect g long u addr s
  | .loadDirect g long u addr => Sys2Proof.Machine.execLoadDirect g long u addr s
  | .storeIndexed g idx long u data => Sys2Proof.Machine.execStoreIndexed g idx long u data s
  | .loadIndexed g idx long u data => Sys2Proof.Machine.execLoadIndexed g idx long u data s
  | .storeImm g idx m data => Sys2Proof.Machine.execStoreImm g idx m data s
  | .loadImm u data => Sys2Proof.Machine.execLoadImm u data s
  | .bitSet reg data => Sys2Proof.Machine.execBitSet reg data s
  | .bitClr reg data => Sys2Proof.Machine.execBitClr reg data s
  | .bitTgl reg data => Sys2Proof.Machine.execBitTgl reg data s
  | .bitTst reg data => Sys2Proof.Machine.execBitTst reg data s
  | .bitXor reg data => Sys2Proof.Machine.execBitXor reg data s
  | .modifyImm g idx data => Sys2Proof.Machine.execModifyImm g idx data s
  | .bitrev g idx data => Sys2Proof.Machine.execBitrev g idx data s
  | .pushPcstk flush => Sys2Proof.Machine.execPushPcstk flush s
  | .pushLoop sts pcstk flush => Sys2Proof.Machine.execPushLoop sts pcstk flush s
  | .pushSts pcstk flush => Sys2Proof.Machine.execPushSts pcstk flush s
  | .popLoop sts pcstk flush => Sys2Proof.Machine.execPopLoop sts pcstk flush s
  | .flushCache => Sys2Proof.Machine.execFlushCache s
  | .popSts pcstk flush => Sys2Proof.Machine.execPopSts pcstk flush s
  | .popPcstk flush => Sys2Proof.Machine.execPopPcstk flush s
  | .stackNone => Sys2Proof.Machine.execStackNone s
  | .nop => Sys2Proof.Machine.execNop s
  | .idle => Sys2Proof.Machine.execIdle s
  | .cjumpAbs addr => Sys2Proof.Machine.execCjumpAbs addr s
  | .cjumpRel rel => Sys2Proof.Machine.execCjumpRel rel s
  | .rframe => Sys2Proof.Machine.execRframe s
  | .noCompute => Sys2Proof.Machine.execNoCompute s
  | .addFix rn rx ry => Sys2Proof.Machine.execAddFix rn rx ry s
  | .subFix rn rx ry => Sys2Proof.Machine.execSubFix rn rx ry s
  | .addCi rn rx ry => Sys2Proof.Machine.execAddCi rn rx ry s
  | .subCi rn rx ry => Sys2Proof.Machine.execSubCi rn rx ry s
  | .avgFix rn rx ry => Sys2Proof.Machine.execAvgFix rn rx ry s
  | .compFix rx ry => Sys2Proof.Machine.execCompFix rx ry s
  | .compuFix rx ry => Sys2Proof.Machine.execCompuFix rx ry s
  | .incCi rn rx => Sys2Proof.Machine.execIncCi rn rx s
  | .decCi rn rx => Sys2Proof.Machine.execDecCi rn rx s
  | .incFix rn rx => Sys2Proof.Machine.execIncFix rn rx s
  | .decFix rn rx => Sys2Proof.Machine.execDecFix rn rx s
  | .negFix rn rx => Sys2Proof.Machine.execNegFix rn rx s
  | .absFix rn rx => Sys2Proof.Machine.execAbsFix rn rx s
  | .passFix rn rx => Sys2Proof.Machine.execPassFix rn rx s
  | .andFix rn rx ry => Sys2Proof.Machine.execAndFix rn rx ry s
  | .orFix rn rx ry => Sys2Proof.Machine.execOrFix rn rx ry s
  | .xorFix rn rx ry => Sys2Proof.Machine.execXorFix rn rx ry s
  | .notFix rn rx => Sys2Proof.Machine.execNotFix rn rx s
  | .minFix rn rx ry => Sys2Proof.Machine.execMinFix rn rx ry s
  | .maxFix rn rx ry => Sys2Proof.Machine.execMaxFix rn rx ry s
  | .clipFix rn rx ry => Sys2Proof.Machine.execClipFix rn rx ry s
  | .addFlt rn rx ry => Sys2Proof.Machine.execAddFlt rn rx ry s
  | .subFlt rn rx ry => Sys2Proof.Machine.execSubFlt rn rx ry s
  | .absAddFlt rn rx ry => Sys2Proof.Machine.execAbsAddFlt rn rx ry s
  | .absSubFlt rn rx ry => Sys2Proof.Machine.execAbsSubFlt rn rx ry s
  | .avgFlt rn rx ry => Sys2Proof.Machine.execAvgFlt rn rx ry s
  | .compFlt rx ry => Sys2Proof.Machine.execCompFlt rx ry s
  | .negFlt rn rx => Sys2Proof.Machine.execNegFlt rn rx s
  | .absFlt rn rx => Sys2Proof.Machine.execAbsFlt rn rx s
  | .passFlt rn rx => Sys2Proof.Machine.execPassFlt rn rx s
  | .rndFlt rn rx => Sys2Proof.Machine.execRndFlt rn rx s
  | .scalb rn rx ry => Sys2Proof.Machine.execScalb rn rx ry s
  | .mant rn rx => Sys2Proof.Machine.execMant rn rx s
  | .logb rn rx => Sys2Proof.Machine.execLogb rn rx s
  | .fix rn rx => Sys2Proof.Machine.execFix rn rx s
  | .fixBy rn rx ry => Sys2Proof.Machine.execFixBy rn rx ry s
  | .trunc rn rx => Sys2Proof.Machine.execTrunc rn rx s
  | .truncBy rn rx ry => Sys2Proof.Machine.execTruncBy rn rx ry s
  | .floatBy rn rx ry => Sys2Proof.Machine.execFloatBy rn rx ry s
  | .float rn rx => Sys2Proof.Machine.execFloat rn rx s
  | .recips rn rx => Sys2Proof.Machine.execRecips rn rx s
  | .rsqrts rn rx => Sys2Proof.Machine.execRsqrts rn rx s
  | .copysign rn rx ry => Sys2Proof.Machine.execCopysign rn rx ry s
  | .minFlt rn rx ry => Sys2Proof.Machine.execMinFlt rn rx ry s
  | .maxFlt rn rx ry => Sys2Proof.Machine.execMaxFlt rn rx ry s
  | .clipFlt rn rx ry => Sys2Proof.Machine.execClipFlt rn rx ry s
  | .mulRn m rn rx ry => Sys2Proof.Machine.execMulRn m rn rx ry s
  | .mulMrf m rx ry => Sys2Proof.Machine.execMulMrf m rx ry s
  | .mulMrb m rx ry => Sys2Proof.Machine.execMulMrb m rx ry s
  | .macRnMrf m rn rx ry => Sys2Proof.Machine.execMacRnMrf m rn rx ry s
  | .macRnMrb m rn rx ry => Sys2Proof.Machine.execMacRnMrb m rn rx ry s
  | .macMrf m rx ry => Sys2Proof.Machine.execMacMrf m rx ry s
  | .macMrb m rx ry => Sys2Proof.Machine.execMacMrb m rx ry s
  | .msuRnMrf m rn rx ry => Sys2Proof.Machine.execMsuRnMrf m rn rx ry s
  | .msuRnMrb m rn rx ry => Sys2Proof.Machine.execMsuRnMrb m rn rx ry s
  | .msuMrf m rx ry => Sys2Proof.Machine.execMsuMrf m rx ry s
  | .msuMrb m rx ry => Sys2Proof.Machine.execMsuMrb m rx ry s
  | .satRnMrf m rn => Sys2Proof.Machine.execSatRnMrf m rn s
  | .satRnMrb m rn => Sys2Proof.Machine.execSatRnMrb m rn s
  | .satMrf m => Sys2Proof.Machine.execSatMrf m s
  | .satMrb m => Sys2Proof.Machine.execSatMrb m s
  | .rndRnMrf signed rn => Sys2Proof.Machine.execRndRnMrf signed rn s
  | .rndRnMrb signed rn => Sys2Proof.Machine.execRndRnMrb signed rn s
  | .rndMrf signed => Sys2Proof.Machine.execRndMrf signed s
  | .rndMrb signed => Sys2Proof.Machine.execRndMrb signed s
  | .clrMrf => Sys2Proof.Machine.execClrMrf s
  | .clrMrb => Sys2Proof.Machine.execClrMrb s
  | .mulFlt rn rx ry => Sys2Proof.Machine.execMulFlt rn rx ry s
  | .putMr0f rk => Sys2Proof.Machine.execPutMr0f rk s
  | .putMr1f rk => Sys2Proof.Machine.execPutMr1f rk s
  | .putMr2f rk => Sys2Proof.Machine.execPutMr2f rk s
  | .putMr0b rk => Sys2Proof.Machine.execPutMr0b rk s
  | .putMr1b rk => Sys2Proof.Machine.execPutMr1b rk s
  | .putMr2b rk => Sys2Proof.Machine.execPutMr2b rk s
  | .getMr0f rk => Sys2Proof.Machine.execGetMr0f rk s
  | .getMr1f rk => Sys2Proof.Machine.execGetMr1f rk s
  | .getMr2f rk => Sys2Proof.Machine.execGetMr2f rk s
  | .getMr0b rk => Sys2Proof.Machine.execGetMr0b rk s
  | .getMr1b rk => Sys2Proof.Machine.execGetMr1b rk s
  | .getMr2b rk => Sys2Proof.Machine.execGetMr2b rk s
  | .lshift rn rx ry => Sys2Proof.Machine.execLshift rn rx ry s
  | .orLshift rn rx ry => Sys2Proof.Machine.execOrLshift rn rx ry s
  | .ashift rn rx ry => Sys2Proof.Machine.execAshift rn rx ry s
  | .orAshift rn rx ry => Sys2Proof.Machine.execOrAshift rn rx ry s
  | .rot rn rx ry => Sys2Proof.Machine.execRot rn rx ry s
  | .bclr rn rx ry => Sys2Proof.Machine.execBclr rn rx ry s
  | .bset rn rx ry => Sys2Proof.Machine.execBset rn rx ry s
  | .btgl rn rx ry => Sys2Proof.Machine.execBtgl rn rx ry s
  | .btst rx ry => Sys2Proof.Machine.execBtst rx ry s
  | .fdep rn rx ry => Sys2Proof.Machine.execFdep rn rx ry s
  | .orFdep rn rx ry => Sys2Proof.Machine.execOrFdep rn rx ry s
  | .fdepSe rn rx ry => Sys2Proof.Machine.execFdepSe rn rx ry s
  | .orFdepSe rn rx ry => Sys2Proof.Machine.execOrFdepSe rn rx ry s
  | .fext rn rx ry => Sys2Proof.Machine.execFext rn rx ry s
  | .fextSe rn rx ry => Sys2Proof.Machine.execFextSe rn rx ry s
  | .exp rn rx => Sys2Proof.Machine.execExp rn rx s
  | .expEx rn rx => Sys2Proof.Machine.execExpEx rn rx s
  | .leftz rn rx => Sys2Proof.Machine.execLeftz rn rx s
  | .lefto rn rx => Sys2Proof.Machine.execLefto rn rx s
  | .fpack rn rx => Sys2Proof.Machine.execFpack rn rx s
  | .funpack rn rx => Sys2Proof.Machine.execFunpack rn rx s
  | .dualFix ra rs rx ry => Sys2Proof.Machine.execDualFix ra rs rx ry s
  | .dualFlt ra rs rx ry => Sys2Proof.Machine.execDualFlt ra rs rx ry s
  | .mulRnAdd rm ra mi ai => Sys2Proof.Machine.execMulRnAdd rm ra mi ai s
  | .mulRnSub rm ra mi ai => Sys2Proof.Machine.execMulRnSub rm ra mi ai s
  | .mulRnAvg rm ra mi ai => Sys2Proof.Machine.execMulRnAvg rm ra mi ai s
  | .macMrfAdd ra mi ai => Sys2Proof.Machine.execMacMrfAdd ra mi ai s
  | .macMrfSub ra mi ai => Sys2Proof.Machine.execMacMrfSub ra mi ai s
  | .macMrfAvg ra mi ai => Sys2Proof.Machine.execMacMrfAvg ra mi ai s
  | .macRnAdd rm ra mi ai => Sys2Proof.Machine.execMacRnAdd rm ra mi ai s
  | .macRnSub rm ra mi ai => Sys2Proof.Machine.execMacRnSub rm ra mi ai s
  | .macRnAvg rm ra mi ai => Sys2Proof.Machine.execMacRnAvg rm ra mi ai s
  | .msuMrfAdd ra mi ai => Sys2Proof.Machine.execMsuMrfAdd ra mi ai s
  | .msuMrfSub ra mi ai => Sys2Proof.Machine.execMsuMrfSub ra mi ai s
  | .msuMrfAvg ra mi ai => Sys2Proof.Machine.execMsuMrfAvg ra mi ai s
  | .msuRnAdd rm ra mi ai => Sys2Proof.Machine.execMsuRnAdd rm ra mi ai s
  | .msuRnSub rm ra mi ai => Sys2Proof.Machine.execMsuRnSub rm ra mi ai s
  | .msuRnAvg rm ra mi ai => Sys2Proof.Machine.execMsuRnAvg rm ra mi ai s
  | .fmulAdd rm ra mi ai => Sys2Proof.Machine.execFmulAdd rm ra mi ai s
  | .fmulSub rm ra mi ai => Sys2Proof.Machine.execFmulSub rm ra mi ai s
  | .fmulFloat rm ra mi ai => Sys2Proof.Machine.execFmulFloat rm ra mi ai s
  | .fmulFix rm ra mi ai => Sys2Proof.Machine.execFmulFix rm ra mi ai s
  | .fmulAbs rm ra mi xa => Sys2Proof.Machine.execFmulAbs rm ra mi xa s
  | .fmulMax rm ra mi ai => Sys2Proof.Machine.execFmulMax rm ra mi ai s
  | .fmulMin rm ra mi ai => Sys2Proof.Machine.execFmulMin rm ra mi ai s
  | .mulDualFix rs rm ra mi ai => Sys2Proof.Machine.execMulDualFix rs rm ra mi ai s
  | .mulDualFlt rs rm ra mi ai => Sys2Proof.Machine.execMulDualFlt rs rm ra mi ai s

end Sys2Proof.Machine
end

