-- ==== Sys2Proof/Machine/Hazards.lean ====
section
/-! DEFINITION. What the instruction at PC must not be: the restrictions of delay slots (41_program_flow.md R261, U21),
of the end of a counter loop (R282, U22), and of the instruction after a MODE1 change (70_reset_and_hazards.md R612,
U26). -/

namespace Sys2Proof.Machine

/-! ### What an instruction names -/

/-- The condition of an instruction; TRUE for those that have none. -/
def condOf : Instr → Cond
  | .ifCompute cond _ => cond
  | .uregMove cond _ _ _ _ _ _ _ _ => cond
  | .dregMoveImm cond _ _ _ _ _ _ _ => cond
  | .uregToUreg cond _ _ _ => cond
  | .swap cond _ _ _ => cond
  | .shiftImmMove cond _ _ _ => cond
  | .shiftImm cond _ => cond
  | .modifyReg cond _ _ _ _ => cond
  | .jumpAbs cond _ _ => cond
  | .jumpRel cond _ _ => cond
  | .callAbs cond _ _ => cond
  | .callRel cond _ _ => cond
  | .jumpInd cond _ _ _ _ _ => cond
  | .jumpRel6 cond _ _ _ _ => cond
  | .callInd cond _ _ _ _ _ => cond
  | .callRel6 cond _ _ _ _ => cond
  | .jumpIndElse cond _ _ _ _ => cond
  | .jumpRelElse cond _ _ _ => cond
  | .rts cond _ _ _ _ => cond
  | .rti cond _ _ _ => cond
  | _ => .always

/-- The universal register an instruction writes by a move or an immediate load. -/
def writtenUReg : Instr → Option UReg
  | .uregMove _ _ _ _ _ _ store _ u => if store then none else some u
  | .uregToUreg _ _ dst _ => some dst
  | .loadDirect _ _ u _ => some u
  | .loadIndexed _ _ _ u _ => some u
  | .loadImm u _ => some u
  | _ => none

/-- The universal register an instruction reads by a move or a loop set-up. -/
def readUReg : Instr → Option UReg
  | .uregMove _ _ _ _ _ _ store _ u => if store then some u else none
  | .uregToUreg _ _ _ src => some src
  | .storeDirect _ _ u _ => some u
  | .storeIndexed _ _ _ u _ => some u
  | .doCountReg u _ => some u
  | _ => none

/-- A jump, call or return. -/
def isBranch : Instr → Bool
  | .jumpAbs .. | .jumpRel .. | .callAbs .. | .callRel .. | .jumpInd .. | .jumpRel6 .. | .callInd .. | .callRel6 ..
  | .jumpIndElse .. | .jumpRelElse .. | .rts .. | .rti .. | .cjumpAbs .. | .cjumpRel .. => true
  | _ => false

/-- A loop set-up, an IDLE, or a push or pop of the PC stack or the loop stacks. -/
def changesSequencer : Instr → Bool
  | .doCountImm .. | .doCountReg .. | .doUntil .. | .idle | .pushPcstk _ | .pushLoop .. | .popLoop .. | .popPcstk _ =>
    true
  | .pushSts pcstk _ => pcstk
  | .popSts pcstk _ => pcstk
  | _ => false

/-! ### Delay slots (U21) -/

/-- The condition holds where the sequencer reads it. -/
def condTaken (s : State) (c : Cond) : Bool :=
  match evalCond s c with
  | .ok p => takes s p
  | .error _ => false

/-- The condition holds on some active element, so that an instruction reads its registers. -/
def condSome (s : State) (c : Cond) : Bool :=
  match evalCond s c with
  | .ok p => p.cx || p.cy
  | .error _ => false

/-- The register is the top of the PC stack or of a loop stack. -/
def isStackTop (u : UReg) : Bool := decide (u = .pcstk ∨ u = .laddr ∨ u = .curlcntr)

/-- The instruction may not stand between a delayed branch and its target: it branches, changes the sequencer's stacks,
or stands at the end address of an active loop (R261). -/
def slotForbidden (s : State) (i : Instr) : Bool :=
  s.dbr.isSome &&
    (changesSequencer i || ((isBranch i || (writtenUReg i).any isStackTop) && condTaken s (condOf i)) ||
      s.loops.any (fun e => decide (e.endAddr = s.pc)))

/-! ### The end of a counter loop (U22) -/

/-- The register shows the loop counter or the loop address. -/
def showsLoop (u : UReg) : Bool := decide (u = .laddr ∨ u = .curlcntr)

/-- PC is one of the last three places of an active counter loop, the innermost or an outer one. -/
def nearCounterEnd (s : State) : Bool := s.loops.any (fun e => decide (e.term = .lce) && nearEnd e s.pc)

/-- The instruction reads the loop counter or LADDR: a move does so on an element where it is made, and into a register
without a complement once, when it is made on every active element (40_compute_move.md R226). -/
def readsLoop (s : State) (i : Instr) : Bool :=
  match i with
  | .uregToUreg cond _ dst src => showsLoop src && (if hasComplement dst then condSome s cond else condTaken s cond)
  | i => (readUReg i).any showsLoop && condSome s (condOf i)

/-- The instruction has the condition NOT LCE, or reads or writes the loop counter or LADDR. -/
def looksAtLoop (s : State) (i : Instr) : Bool :=
  decide (condOf i = .lce) || readsLoop s i || ((writtenUReg i).any showsLoop && condTaken s (condOf i))

/-- The instruction looks at the loop counter, or at LADDR, in the last three places of a counter loop (R282). -/
def endForbidden (s : State) (i : Instr) : Bool := nearCounterEnd s && looksAtLoop s i

/-! ### After a MODE1 change (U26) -/

/-- MODE1.PEYEN. -/
def peyenBit : Word := 1#32 <<< 21

/-- MODE1.ALUSAT. -/
def alusatBit : Word := 1#32 <<< 13

/-- MODE1.TRUNC. -/
def truncBit : Word := 1#32 <<< 15

/-- MODE1.RND32. -/
def rnd32Bit : Word := 1#32 <<< 16

/-- The rounding bits. -/
def roundBits : Word := truncBit ||| rnd32Bit

/-- A word when `go`, nothing otherwise. -/
def maskIf (go : Bool) (w : Word) : Word := if go then w else 0#32

/-- The MODE1 bits a fixed-point operation on two registers reads. -/
def fixOp2Deps : FixOp2 → Word
  | .add | .sub | .addCi | .subCi => alusatBit
  | .avg => truncBit
  | .and | .or | .xor | .min | .max | .clip => 0#32

/-- The MODE1 bits a fixed-point operation on one register reads. -/
def fixOp1Deps : FixOp1 → Word
  | .incCi | .decCi | .inc | .dec | .neg | .abs => alusatBit
  | .pass | .not => 0#32

/-- The MODE1 bits a floating-point operation on two registers reads. -/
def fltOp2Deps : FltOp2 → Word
  | .add | .sub | .absAdd | .absSub | .avg | .scalb => roundBits
  | .fixBy => truncBit ||| alusatBit
  | .truncBy => alusatBit
  | .floatBy => truncBit
  | .copysign | .min | .max | .clip => 0#32

/-- The MODE1 bits a floating-point operation on one register reads. -/
def fltOp1Deps : FltOp1 → Word
  | .rnd | .float => truncBit
  | .fix => truncBit ||| alusatBit
  | .logb | .trunc => alusatBit
  | .neg | .abs | .pass | .mant | .recips | .rsqrts => 0#32

/-- The MODE1 bits an operation reads, PEYEN aside. -/
def unitDeps : Compute → Word
  | .fix2 op _ _ _ => fixOp2Deps op
  | .fix1 op _ _ => fixOp1Deps op
  | .flt2 op _ _ _ => fltOp2Deps op
  | .flt1 op _ _ => fltOp1Deps op
  | .dualFix _ _ _ _ => alusatBit
  | .mulFlt _ _ _ => roundBits
  | .dualFlt _ _ _ _ => roundBits
  | .mulAluFix _ aop _ _ _ _ => fixOp2Deps (mfFix aop)
  | .macAluFix _ aop _ _ _ => fixOp2Deps (mfFix aop)
  | .mulAluFlt aop _ _ _ _ => roundBits ||| fltOp2Deps (mfFlt aop)
  | .mulAbsFlt _ _ _ _ => roundBits
  | .mulDualFix _ _ _ _ _ => alusatBit
  | .mulDualFlt _ _ _ _ _ => roundBits
  | _ => 0#32

/-- The MODE1 bits a compute reads. -/
def computeDeps (c : Compute) : Word := maskIf (decide (c ≠ .nop)) (peyenBit ||| unitDeps c)

/-- The MODE1 bits a condition reads: PEYEN where the elements can differ, ALUSAT for the comparisons (R172, R173). -/
def condDeps (c : Cond) : Word := maskIf (perElement c) peyenBit ||| maskIf (readsAlusat c) alusatBit

/-- The MODE1 bits a post-modify of index `k` reads: CBUFEN where a buffer is set up. -/
def postDeps (s : State) (k : RegNum) : Word := maskIf (decide (s.l[k] ≠ 0#32)) (1#32 <<< 24)

/-- The MODE1 bits a load by index `k` of a register reads: BDCST1 for I1, BDCST9 for I9. -/
def loadDeps (k : RegNum) : Word :=
  maskIf (decide (k = 1)) (1#32 <<< 23) ||| maskIf (decide (k = 9)) (1#32 <<< 22)

/-- The MODE1 bits the move of a data register by index `k` with post-modify reads. -/
def dregMoveDeps (s : State) (k : RegNum) (store : Bool) : Word :=
  peyenBit ||| postDeps s k ||| maskIf (!store) (loadDeps k)

/-- The MODE1 bits the move of a universal register by an index reads. -/
def uregMoveDeps (u : UReg) (k : RegNum) (store : Bool) : Word :=
  maskIf (hasComplement u) (peyenBit ||| maskIf (!store) (loadDeps k))

/-- The MODE1 bits the move or bit operation part of an instruction reads. -/
def moveDeps (s : State) : Instr → Word
  | .dualMove _ dm pm =>
    dregMoveDeps s (Dag.dm.reg dm.i) dm.store ||| dregMoveDeps s (Dag.pm.reg pm.i) pm.store
  | .uregMove _ _ g post i _ store _ u => uregMoveDeps u (g.reg i) store ||| maskIf post (postDeps s (g.reg i))
  | .dregMoveImm _ _ g post i _ store _ =>
    peyenBit ||| maskIf (!store) (loadDeps (g.reg i)) ||| maskIf post (postDeps s (g.reg i))
  | .uregToUreg _ _ dst _ => maskIf (hasComplement dst) peyenBit
  | .shiftImmMove _ _ g mv => dregMoveDeps s (g.reg mv.i) mv.store
  | .shiftImm _ _ => peyenBit
  | .jumpIndElse _ _ _ _ mv => dregMoveDeps s (Dag.dm.reg mv.i) mv.store
  | .jumpRelElse _ _ _ mv => dregMoveDeps s (Dag.dm.reg mv.i) mv.store
  | .storeDirect _ _ u _ => maskIf (hasComplement u) peyenBit
  | .loadDirect _ _ u _ => maskIf (hasComplement u) peyenBit
  | .storeIndexed g i _ u _ => uregMoveDeps u (g.reg i) true
  | .loadIndexed g i _ u _ => uregMoveDeps u (g.reg i) false
  | .storeImm g i _ _ => peyenBit ||| postDeps s (g.reg i)
  | .loadImm u _ => maskIf (hasComplement u) peyenBit
  | .bitSet reg _ => maskIf (hasComplement (.sys reg)) peyenBit
  | .bitClr reg _ => maskIf (hasComplement (.sys reg)) peyenBit
  | .bitTgl reg _ => maskIf (hasComplement (.sys reg)) peyenBit
  | .bitTst _ _ => peyenBit
  | .bitXor _ _ => peyenBit
  | .cjumpAbs _ => peyenBit
  | .cjumpRel _ => peyenBit
  | .rframe => peyenBit
  | _ => 0#32

/-- A conditional compute of which the field is all zeros: it does nothing whatever its condition (R223). -/
def doesNothing : Instr → Bool
  | .ifCompute _ c => decide (c = .nop)
  | _ => false

/-- The MODE1 bits the instruction's behaviour depends on. What the end of a loop depends on is `loopEnd`'s. -/
def modeDeps (s : State) (i : Instr) : Word :=
  maskIf (!doesNothing i) (condDeps (condOf i)) ||| computeDeps i.compute ||| moveDeps s i

/-- What forbids an instruction here. -/
def guard (s : State) (i : Instr) : Option Refusal :=
  if slotForbidden s i then some .delaySlot
  else if endForbidden s i then some .loopEnd
  else if modeDeps s i &&& s.mode1Changed ≠ 0#32 then some .modeJustChanged
  else none

end Sys2Proof.Machine
end

