-- ==== Sys2Proof/Machine/Sequencer.lean ====
section
/-! DEFINITION. What a step does around an instruction: fetching it, choosing the next PC, the end of a loop, the timer,
the requests and the sampling of interrupts (41_program_flow.md R260, R282; 60_exceptions.md R561, R572). -/

namespace Sys2Proof.Machine

/-! ### Fetching (20_memory.md R127) -/

/-- The address PC fetches from. -/
def fetchAddr (s : State) : Word := s.pc.setWidth 32

/-- A 48-bit word from a left-justified value. -/
def to48 (v : BusWord) : InstrWord := v.extractLsb' 16 48

/-- The 48-bit word at PC: from a 48-bit cell, or a free value from a device (R103, R122); refused where the map has
nothing, a cell of another width, or an address stored to since the last FLUSH CACHE (U3, U14). -/
def fetchWord (s : State) : Run InstrWord :=
  let a := fetchAddr s
  if a ∈ s.stale then refuse .staleFetch
  else
    match s.region a with
    | .word48 => .ok (to48 (s.mem.readCell a 6))
    | .device => .ok (to48 (Config.freeWord (.device a) s.clock))
    | .absent => refuse (.unmapped a)
    | .word32 => refuse (.cellWidth a)
    | .word40 => refuse (.cellWidth a)
    | .long => refuse (.cellWidth a)

/-- The instruction at PC. -/
def fetch (s : State) : Run Instr := do
  let w ← fetchWord s
  match decode w with
  | .ok i => pure i
  | .error why => refuse (.undecodable why)

/-- The instruction at PC, when nothing forbids it there. -/
def fetchAllowed (s : State) : Run Instr := do
  let i ← fetch s
  match guard s i with
  | some why => refuse why
  | none => pure i

/-! ### The next PC (R260) -/

/-- On to the next address. -/
def advance (s : State) : State := { s with pc := s.pc + 1#24, straight := true }

/-- Control goes to an address off the straight line. -/
def goTo (s : State) (t : ProgAddr) : State := { s with pc := t, straight := false }

/-- The transfer of a delayed branch, with the pops of (LA) (R265). -/
def transfer (s : State) (d : DelayedBranch) : Run State := do
  let s ← whenSet d.loopAbort abortLoop s
  pure (goTo { s with dbr := none } d.target)

/-- A termination condition was the same after each of the last three instructions executed (R282, U22). -/
def settled (s : State) (term : Cond) : Bool :=
  s.history.all (fun v => termHolds term v == termHolds term s.view)

/-- The termination of a loop: the loop's entries go and control falls through. -/
def leaveLoop (s : State) : Run State := do
  let s ← abortLoop s
  pure (advance s)

/-- Another pass: back to the start address on top of the PC stack, which is refused when there is none (U19). -/
def repeatLoop (s : State) : Run State :=
  match s.pcStack with
  | [] => refuse .emptyStackRegister
  | t :: _ => .ok (goTo s t.addr)

/-- `loop_end` (R282) of the innermost loop `e`, the others being `rest`. The state is the one the instruction left: where
that instruction wrote MODE1, the test reads the new PEYEN and ALUSAT, the model's choice (log entry 45); where the
instruction before it did, a test that depends on a changed bit is refused (70_reset_and_hazards.md R612, U26). -/
def loopEnd (s : State) (e : LoopEntry) (rest : List LoopEntry) : Run State :=
  if e.term = .lce then
    if e.count = 1#32 then leaveLoop s
    else repeatLoop { s with loops := { e with count := e.count - 1#32 } :: rest }
  else if e.term = .always then repeatLoop s
  else if condDeps e.term &&& s.mode1Changed ≠ 0#32 then refuse .modeJustChanged
  else if !settled s e.term then refuse .loopEnd
  else if termHolds e.term s.view then leaveLoop s
  else repeatLoop s

/-- The DO that made loop `e` pushed this entry of the PC stack. -/
def PcEntry.isStartOf (p : PcEntry) (e : LoopEntry) : Bool :=
  match e.made with
  | none => false
  | some d => decide (p.source = .loop d.clock)

/-- The entry is no return address and no start that the DO of an active loop pushed: software may have put the start of
a loop there (R340, log entry 29). -/
def PcEntry.isLoose (p : PcEntry) (loops : List LoopEntry) : Bool :=
  decide (p.source ≠ .call) && !loops.any p.isStartOf

/-- The start address that its DO pushed for loop `e` is still on the PC stack. -/
def hasStart (stack : List PcEntry) (e : LoopEntry) : Bool := stack.any (fun p => p.isStartOf e)

/-- The addresses on the PC stack that software or its DO can have put there as the first body address of the innermost
loop `e` (log entry 29): the start its DO pushed and loose entries above it; with none such, the loose entries, but for
as many of the lowest as there are active loops without a start of their own around `e`. -/
def ownStarts (s : State) (e : LoopEntry) (rest : List LoopEntry) : List PcEntry :=
  if hasStart s.pcStack e then
    let above := s.pcStack.takeWhile (fun p => !p.isStartOf e)
    (s.pcStack.filter (fun p => p.isStartOf e)).take 1 ++ above.filter (fun p => p.isLoose s.loops)
  else
    let loose := s.pcStack.filter (fun p => p.isLoose s.loops)
    loose.take (loose.length - rest.countP (fun f => !hasStart s.pcStack f))

/-- The first body address that its DO gave loop `e` (R280), when the start the DO pushed is no longer on the PC stack: a
pop does not move the body. While the start is there a write of PCSTK can have changed it, and `ownStarts` has it. -/
def poppedStart (s : State) (e : LoopEntry) : List ProgAddr :=
  match e.made with
  | none => []
  | some d => if hasStart s.pcStack e then [] else [d.first]

/-- The addresses that can be the first body address of the innermost loop `e`: `poppedStart`, `ownStarts`, and beside
them the top of the PC stack, "the loop start address" of R282, if it is no return address (log entry 29). -/
def firstBodies (s : State) (e : LoopEntry) (rest : List LoopEntry) : List ProgAddr :=
  let own := poppedStart s e ++ (ownStarts s e rest).map PcEntry.addr
  let back := ((s.pcStack.take 1).filter (fun p => decide (p.source ≠ .call ∧ p.addr ∉ own))).map PcEntry.addr
  if own.isEmpty then [] else own ++ back

/-- The end of loop `e` lies below its first body address, whichever of the addresses on the PC stack that is (U22). A
return address is none of them: the end of a stale loop only misfires to it (R602). -/
def endBelowStart (s : State) (e : LoopEntry) (rest : List LoopEntry) : Bool :=
  let starts := firstBodies s e rest
  !starts.isEmpty && starts.all (fun b => decide ((e.endAddr - b).toInt < 0))

/-- The innermost loop `e`, whose end is reached, also ends another active loop, or ends below the start of its body: the
loop was made by writing LADDR or PCSTK (R280, R282, U22). -/
def loopMisplaced (s : State) (e : LoopEntry) (rest : List LoopEntry) : Bool :=
  rest.any (fun f => decide (f.endAddr = e.endAddr)) || endBelowStart s e rest

/-- The instruction at PC, which took `s` to `t`, wrote LADDR so that it stands in the last three places of the counter
loop that LADDR now describes (R282, U22). -/
def endMovedHere (s t : State) : Bool :=
  match s.loops, t.loops with
  | e :: before, f :: after =>
    decide (before.length = after.length ∧ e.laddr ≠ f.laddr ∧ f.term = .lce) && nearEnd f s.pc
  | _, _ => false

/-- The next PC of an instruction that asks for no branch and is not between a delayed branch and its target. -/
def fallThrough (s : State) : Run State :=
  match s.loops with
  | [] => .ok (advance s)
  | e :: rest =>
    if e.endAddr = s.pc then (if loopMisplaced s e rest then refuse .loopEnd else loopEnd s e rest)
    else .ok (advance s)

/-- The choice of the next PC after an instruction (R260). -/
def sequence (s : State) : Run State :=
  match s.request, s.dbr with
  | some r, _ =>
    if r.delayed then .ok (advance { s with request := none, dbr := some ⟨r.target, dbSlots, r.loopAbort⟩ })
    else .ok (goTo { s with request := none } r.target)
  | none, some d =>
    if d.left ≤ 1 then transfer s d else .ok (advance { s with dbr := some { d with left := d.left - 1 } })
  | none, none => fallThrough s

/-! ### The rest of a step -/

/-- The views kept for the next loop end: the last two (log entry 29). -/
def remember (v : FlagView) (history : List FlagView) : List FlagView := v :: history.take 1

/-- The clock of the free values advances (log entry 11). -/
def tick (s : State) : State := { s with clock := s.clock + 1 }

/-- The timer, the requests, and the sampling of interrupts (R561, R575). -/
def betweenInstructions (s : State) : Run State := sampleInterrupts (latchRequests (tickTimer s))

/-- The MODE1 bits a step changed: by its instruction, and by an interrupt it took (R612, log entry 31). -/
def modeChange (s t u : State) : Word := (s.mode1 ^^^ t.mode1) ||| (t.mode1 ^^^ u.mode1)

/-- What a step does after the instruction has gone from `s` to `t`: the next PC, chosen with the instruction's own draw
of the BM condition and the input pins (R578), then the clock, interrupts, and what the next step must know; refused
where the instruction has moved the end of a counter loop to where it stands itself (log entries 23, 29 and 31). -/
def finish (s t : State) : Run State :=
  if endMovedHere s t then refuse .loopEnd
  else do
    let u ← sequence t
    let u ← betweenInstructions (tick u)
    pure { u with history := remember t.view s.history, mode1Changed := modeChange s t u }

/-- A step of the idle state: no instruction, interrupts are sampled (R346, R572). -/
def idleStep (s : State) : Run State := do
  let u ← betweenInstructions (tick s)
  pure { u with mode1Changed := modeChange s s u }

/-- The outcome of a step from the outcome of its instruction. -/
def afterExec (s : State) (o : Host.Outcome State Fault Refusal) : Host.Outcome State Fault Refusal :=
  match o with
  | .next t => Run.outcome (finish s t)
  | .fault f => .fault f
  | .refused why => .refused why

/-! ### Placing an instruction -/

/-- The bytes of a word where PC fetches, in a map where that address is a 48-bit cell; fetching from it is not stale,
and the processor is not idle (log entry 7). -/
def placeInstr (s : State) (w : InstrWord) : State :=
  let a := fetchAddr s
  { s with
    params :=
      if s.region a = .word48 then s.params
      else { s.params with map := ⟨a.toNat, 1, .word48⟩ :: s.params.map }
    mem := s.mem.writeCell a 6 (w ++ 0#16)
    stale := s.stale.filter (fun c => decide (c ≠ a))
    idle := false }

end Sys2Proof.Machine
end

