-- ==== Sys2Proof/Machine/Step.lean ====
section
/-! DEFINITION. One step of the machine (41_program_flow.md R260), and the placing of an instruction where the next step
fetches. -/

namespace Sys2Proof.Machine

/-- One step: in the idle state only interrupts are sampled; otherwise the instruction at PC runs. -/
def step (s : State) : Host.Outcome State Fault Refusal :=
  if s.idle then Run.outcome (idleStep s)
  else
    match fetchAllowed s with
    | .ok i => afterExec s (exec i s)
    | .error e => Run.outcome (.error e)

/-- The state with the instruction of a table word stored where the next step fetches (log entry 7). -/
def State.withFetchWord (s : State) (nbits w : Nat) : State := placeInstr s (tableWord nbits w)

end Sys2Proof.Machine
end

