-- ==== Sys2Proof/Safety.lean ====
section
/-! DEFINITION. What the statements about the machine are said in: the invariant of its states, what a compute leaves,
and the cells an instruction stores to. -/

namespace Sys2Proof.Machine

/-! ### The invariant -/

/-- The stacks are no deeper than their depths (41_program_flow.md R264). -/
abbrev stacksFit (s : State) : Prop :=
  s.pcStack.length ≤ s.params.pcDepth ∧ s.loops.length ≤ s.params.loopDepth ∧ s.sts.length ≤ s.params.stsDepth

/-- MODE1, and every saved MODE1, has the alternate bits 0 (10_state.md R53, U27). -/
abbrev modesPlain (s : State) : Prop :=
  s.mode1 &&& alternateBits = 0#32 ∧ ∀ e ∈ s.sts, e.mode1 &&& alternateBits = 0#32

/-- The read-only bits of MODE2 and the computed bits of STKYx are not stored (10_state.md R46, R55). -/
abbrev readOnlyClear (s : State) : Prop :=
  s.mode2 &&& ~~~mode2Writable = 0#32 ∧ s.x.stky &&& ~~~storedSticky = 0#32

/-- No branch request is left between steps, and a pending delayed branch has one or two slots to go (R260, R261). -/
abbrev branchesPlain (s : State) : Prop :=
  s.request = none ∧ ∀ d ∈ s.dbr, 1 ≤ d.left ∧ d.left ≤ dbSlots

/-- The states the machine moves between: the memory and the stale set in canonical form, the stacks within their
depths, the modes and read-only bits legal, no request left over. -/
def Good (s : State) : Prop :=
  s.mem.wf ∧ s.stale.Pairwise (fun a c => a < c) ∧ stacksFit s ∧ modesPlain s ∧ readOnlyClear s ∧ branchesPlain s

/-! ### What a compute leaves -/

/-- The state after a compute on the elements where it runs; nothing else changes. -/
def computed (s : State) (c : Compute) (p : CondPair) : State :=
  { s with
    x := if p.cx then s.x.apply (evalCompute c (s.env .x) s.x) else s.x
    y := if p.cy then s.y.apply (evalCompute c (s.env .y) s.y) else s.y }

/-- The state after a shifter-immediate operation. -/
def shifted (s : State) (sh : ShiftImm) (p : CondPair) : State :=
  { s with
    x := if p.cx then s.x.apply (evalShiftImm sh (s.env .x) s.x) else s.x
    y := if p.cy then s.y.apply (evalShiftImm sh (s.env .y) s.y) else s.y }

/-- Both elements, as the mode has it: PEx, and PEy in SIMD mode. -/
def allElements (s : State) : CondPair := ⟨true, s.simd⟩

/-! ### What one unit leaves on an element -/

/-- The state after an operation on PEx and, in SIMD mode, the same on PEy (10_state.md R30). -/
def onElements (s : State) (f : Pe → Pe) : State := { s with x := f s.x, y := if s.simd then f s.y else s.y }

/-- An element after an ALU operation that only sets flags. -/
def withAlu (p : Pe) (fl : AluFlags) : Pe :=
  { p with astat := fl.into p.astat, stky := p.stky ||| fl.sticky, au := fl.au }

/-- An element after a fixed-point ALU result: `out` in bits 39 to 8 of the register, zeros below (R360). -/
def aluTo (p : Pe) (rn : RegNum) (out : Word) (fl : AluFlags) : Pe :=
  withAlu { p with rf := p.rf.set rn (toFx out) } fl

/-- An element after multiplier flags. -/
def withMul (p : Pe) (fl : MulFlags) : Pe := { p with astat := fl.into p.astat, stky := p.stky ||| fl.sticky }

/-- An element after a shifter result (R490). -/
def shiftTo (p : Pe) (rn : RegNum) (out : Word) (fl : ShiftFlags) : Pe :=
  { p with rf := p.rf.set rn (toFx out), astat := fl.into p.astat }

/-- The fixed-point result of an exact sum: in saturation mode held between -2^31 and 2^31 - 1, otherwise its low 32 bits
(44_alu_fixed.md R362). -/
def sumOut (mode1 : Word) (v : Int) : Word :=
  if alusat mode1 then BitVec.ofInt 32 (max (-(2 ^ 31)) (min v (2 ^ 31 - 1))) else BitVec.ofInt 32 v

/-- The flags of an exact sum with its carry: AZ and AN from the output, AV when the sum is no 32-bit number
(44_alu_fixed.md R361, R363). -/
def sumFlags (mode1 : Word) (v : Int) (carry : Bool) : AluFlags :=
  { az := decide (sumOut mode1 v = 0#32)
    au := false
    an := (sumOut mode1 v).getLsbD 31
    av := decide (v < -(2 ^ 31) ∨ 2 ^ 31 ≤ v)
    ac := carry
    as := false
    ai := false
    af := false }

/-- The value of a Normal or Zero operand as a rational number (45_alu_float.md R400): `(-1)^s * 2^(E-127) * (1 + f/2^31)`;
0 for a Zero. An Inf counts as plus or minus 2^128, beyond every Normal, so that the order is that of R410. -/
def floatValue (v : DataWord) : ℚ :=
  if (v.extractLsb' 31 8).toNat = 0 then 0
  else
    (if v.getLsbD 39 then -1 else 1) * (2 : ℚ) ^ (((v.extractLsb' 31 8).toNat : Int) - 127) *
      (1 + ((v.extractLsb' 0 31).toNat : ℚ) / 2 ^ 31)

/-- The state after an operation that may differ between the elements by a free value. -/
def onEach (s : State) (f : Element → Pe → Pe) : State := { s with x := f .x s.x, y := if s.simd then f .y s.y else s.y }

/-- An element after a floating-point ALU result (R403). -/
def fltTo (p : Pe) (rn : RegNum) (r : DataWord) (fl : AluFlags) : Pe := withAlu { p with rf := p.rf.set rn r } fl

/-- The flags of a floating-point result that is not all ones: AZ of a biased exponent 0, AN the sign bit, and what its
rounding found (R403, R404). -/
def resultFlags (r : DataWord) (overflow underflow : Bool) : AluFlags :=
  { az := decide (r.extractLsb' 31 8 = 0#8)
    au := underflow
    an := r.getLsbD 39
    av := overflow
    ac := false
    as := false
    ai := false
    af := true }

/-- `q` is `p` after the all ones result of an invalid operation: AI set, AN whatever it is, the other flags clear but AF
and, of a conversion, AV (R402, R403, R418). -/
def invalidOut (p q : Pe) (rn : RegNum) (overflow : Bool) : Prop :=
  ∃ negative : Bool, q = fltTo p rn 0xFFFFFFFFFF#40
    { az := false, au := false, an := negative, av := overflow, ac := false, as := false, ai := true, af := true }

/-- The result of an overflow (R401): Inf when rounding to nearest; when truncating, the largest Normal of `p` fraction
bits. -/
def overflowResult (mode1 : Word) (s : Bool) (p : Nat) : DataWord :=
  BitVec.ofBool s ++
    (if truncMode mode1 then 254#8 ++ BitVec.ofNat 31 ((2 ^ p - 1) * 2 ^ (31 - p)) else 255#8 ++ 0#31 : BitVec 39)

/-- `fround (s, m, p)` as R401 says it of a positive number `m`: with `2^e <= m < 2^(e+1)`, `m` in units of `2^(e-p)` is
narrowed to an integer `n`, down when truncating and otherwise to the nearest, an even one on a tie; a carry goes into
the exponent; an exponent above 127 overflows, one below -126 gives a Zero. -/
def roundsTo (mode1 : Word) (s : Bool) (m : ℚ) (p : Nat) (r : DataWord) (overflow underflow : Bool) : Prop :=
  ∃ (e : Int) (n : Nat),
    let q : ℚ := m / 2 ^ (e - p)
    let carried : Bool := decide (n = 2 ^ (p + 1))
    let e' : Int := if carried then e + 1 else e
    let n' : Nat := if carried then 2 ^ p else n
    (2 : ℚ) ^ e ≤ m ∧ m < 2 ^ (e + 1) ∧
      (if truncMode mode1 then (n : ℚ) ≤ q ∧ q < n + 1
        else |q - n| ≤ 1 / 2 ∧ (|q - n| = 1 / 2 → n % 2 = 0)) ∧
      overflow = decide (127 < e') ∧ underflow = decide (e' < -126) ∧
      r =
        if 127 < e' then overflowResult mode1 s p
        else if e' < -126 then BitVec.ofBool s ++ 0#39
        else BitVec.ofBool s ++ (BitVec.ofNat 8 (e' + 127).toNat ++ BitVec.ofNat 31 ((n' - 2 ^ p) * 2 ^ (31 - p)))

/-- A number narrowed to an integer, as a conversion does it (R418). -/
def narrowsTo (mode : Rounding) (x : ℚ) (n : Int) : Prop :=
  match mode with
  | .nearest => |x - n| ≤ 1 / 2 ∧ (|x - n| = 1 / 2 → n % 2 = 0)
  | .floor => (n : ℚ) ≤ x ∧ x < n + 1
  | .zero => if 0 ≤ x then (n : ℚ) ≤ x ∧ x < n + 1 else x ≤ n ∧ (n : ℚ) - 1 < x

/-! ### Memory -/

/-- The cell at an address is an ordinary data cell of 32 or 40 bits. -/
def plainCell (s : State) (a : Word) : Prop := s.region a = .word32 ∨ s.region a = .word40

/-- The bytes of the cell at an address, by its width. -/
def cellLanes (s : State) (a : Word) : Nat :=
  match s.region a with
  | .word32 => 4
  | .word40 => 5
  | .word48 => 6
  | .long => 8
  | .absent => 0
  | .device => 0

/-- What a load of the cell at an address answers, left-justified. -/
def cellValue (s : State) (a : Word) : BusWord := s.mem.readCell a (cellLanes s a)

/-- The state with a left-justified value stored in the data cell at an address. -/
def stored (s : State) (a : Word) (v : BusWord) : State :=
  { s with mem := s.mem.writeCell a (cellLanes s a) v, stale := insertAddr a s.stale }

/-- The cells one register store writes: two of 32 bits for a long word (20_memory.md R108). -/
def cellsOf (s : State) (lw : Bool) (a : Word) : List Word :=
  if isLong s lw a ∧ s.region a = .word32 then [evenAddr a, oddAddr a] else [a]

/-- The cells `xfer` stores to. -/
def movedCells (s : State) (lw : Bool) (ax : Word) (u : UReg) (store ex ey : Bool) : List Word :=
  if store then
    (if ex then cellsOf s lw ax else []) ++
      (if ey && !madeOnce s lw ax u then cellsOf s lw (yAddr false ax) else [])
  else []

/-- The elements an instruction runs on. -/
def elementsOf (s : State) (c : Cond) : CondPair :=
  match evalCond s c with
  | .ok p => p
  | .error _ => ⟨false, false⟩

/-- The instruction flushes the cache (43_misc.md R338, R343). -/
def flushes (i : Instr) : Bool :=
  match i with
  | .flushCache => true
  | .pushPcstk fl | .pushLoop _ _ fl | .pushSts _ fl | .popLoop _ _ fl | .popSts _ fl | .popPcstk fl => fl
  | _ => false

/-- The addresses of the cells an instruction stores to. -/
def storedCells (i : Instr) (s : State) : List Word :=
  match i with
  | .dualMove _ dm pm =>
    movedCells s false s.i[Dag.dm.reg dm.i] (.r dm.reg) dm.store true s.simd ++
      movedCells s false s.i[Dag.pm.reg pm.i] (.r pm.reg) pm.store true s.simd
  | .uregMove cond _ g post i m store long u =>
    let p := elementsOf s cond
    movedCells s long (indexAddr s post (g.reg i) (modifier s g m)) u store p.cx p.cy
  | .dregMoveImm cond _ g post i data store reg =>
    let p := elementsOf s cond
    movedCells s false (indexAddr s post (g.reg i) (data.signExtend 32)) (.r reg) store p.cx p.cy
  | .shiftImmMove cond _ g mv =>
    let p := elementsOf s cond
    movedCells s false s.i[g.reg mv.i] (.r mv.reg) mv.store p.cx p.cy
  | .jumpIndElse cond _ _ _ mv =>
    let p := elementsOf s cond
    movedCells s false s.i[Dag.dm.reg mv.i] (.r mv.reg) mv.store (!p.cx) (s.simd && !p.cy)
  | .jumpRelElse cond _ _ mv =>
    let p := elementsOf s cond
    movedCells s false s.i[Dag.dm.reg mv.i] (.r mv.reg) mv.store (!p.cx) (s.simd && !p.cy)
  | .storeDirect _ long u addr => movedCells s long addr u true true s.simd
  | .storeIndexed g i long u data => movedCells s long (s.i[g.reg i] + data) u true true s.simd
  | .storeImm g i _ _ => s.i[g.reg i] :: (if s.simd then [s.i[g.reg i] + 1#32] else [])
  | _ => []

/-! ### What a move leaves (40_compute_move.md R221) -/

/-- The value a move takes from a register; 0 where the register does not read. -/
def valueOf (s : State) (u : UReg) : BusWord :=
  match s.readUReg u with
  | .ok v => v
  | .error _ => 0#64

/-- A cell that a normal word move of a register can reach: 32 or 40 bits, for PX also 48 (R104, R109). -/
def normalCell (s : State) (a : Word) (u : UReg) : Prop :=
  plainCell s a ∨ (u = .px ∧ s.region a = .word48)

/-- A move between a register and the cell at an address can be made. -/
def movable (s : State) (store : Bool) (a : Word) (u : UReg) : Prop :=
  normalCell s a u ∧ (u = .px → s.params.px ≠ .absent) ∧
    if store then (∃ v, s.readUReg u = .ok v) else s.writeRefusal u (cellValue s a) = none

/-- `t` with the move made, all values taken from `s`, the state before the instruction. -/
def moved (s t : State) (store : Bool) (a : Word) (u : UReg) : State :=
  if store then stored t a (valueOf s u) else t.writeUReg u (cellValue s a)

/-- The Y element's part of a move runs: its condition holds, or the move is a broadcast load (R115, R116). -/
def yRuns (s : State) (store bc : Bool) (p : CondPair) : Bool := p.cy || (!store && bc && !s.simd && p.cx)

/-- The address of the Y element's part. -/
def yPlace (store bc : Bool) (ax : Word) : Word := if !store && bc then ax else ax + 1#32

/-- A move in both elements can be made: each part that runs can, and where the register has no complement the elements
agree (R117, R224). -/
def movableBoth (s : State) (store bc : Bool) (ax : Word) (u : UReg) (p : CondPair) : Prop :=
  s.region ax ≠ .long ∧ (p.cx = true → movable s store ax u) ∧
    (hasComplement u = true → yRuns s store bc p = true → movable s store (yPlace store bc ax) (complement u)) ∧
    (hasComplement u = false → s.simd = true → p.cx = p.cy)

/-- `t` with a move made in both elements, a register without a complement once (R115 to R117). -/
def movedBoth (s t : State) (store bc : Bool) (ax : Word) (u : UReg) (p : CondPair) : State :=
  let t := if p.cx then moved s t store ax u else t
  if hasComplement u && yRuns s store bc p then moved s t store (yPlace store bc ax) (complement u) else t

/-- The registers a load writes. -/
def loadedRegs (s : State) (store bc : Bool) (u : UReg) (p : CondPair) : List UReg :=
  if store then []
  else
    (if p.cx then [u] else []) ++
      (if hasComplement u && yRuns s store bc p then [complement u] else [])

/-- The cells a store in both elements writes. -/
def storedBoth (s : State) (store : Bool) (ax : Word) (u : UReg) (p : CondPair) : List Word :=
  if store then (if p.cx then [ax] else []) ++ (if hasComplement u && yRuns s store false p then [ax + 1#32] else [])
  else []

/-- The places a move in both elements writes. -/
def movePlaces (s : State) (store bc : Bool) (ax : Word) (u : UReg) (p : CondPair) : List Place :=
  (loadedRegs s store bc u p).flatMap regPlaces ++ (storedBoth s store ax u p).map Place.cell

/-! ### What a long word move leaves (20_memory.md R108, log entry 20) -/

/-- A long word access at an address finds its cells: a location the map declares long, or with (LW) a pair of 32-bit
cells, the even address below the odd one. -/
def pairReached (s : State) (lw : Bool) (a : Word) : Prop :=
  s.region a = .long ∨
    (lw = true ∧ s.region a = .word32 ∧ s.region (evenAddr a) = .word32 ∧ s.region (oddAddr a) = .word32)

/-- The cells of a long word access. -/
def pairCells (s : State) (a : Word) : List Word := if s.region a = .long then [a] else [evenAddr a, oddAddr a]

/-- A long word access of a register can be made: the parameter has the neighbour pair, the register has a neighbour, the
cells are there, and in SIMD mode the elements agree, for it is made once. -/
def pairMovable (s : State) (lw : Bool) (a : Word) (u : UReg) (p : CondPair) : Prop :=
  s.params.longWord = .neighbourPair ∧ neighbours u ≠ none ∧ (u = .px → s.params.px ≠ .absent) ∧ pairReached s lw a ∧
    (s.simd = true → p.cx = p.cy)

/-- `t` with the registers `lo` and `hi` stored as a long word: `lo` in the low half, at the even address. -/
def pairStored (s t : State) (a : Word) (lo hi : UReg) : State :=
  let l := to32 (valueOf s lo)
  let h := to32 (valueOf s hi)
  { t with
    mem :=
      if s.region a = .long then t.mem.writeCell a 8 (h ++ l)
      else (t.mem.writeCell (evenAddr a) 4 (bus32 l)).writeCell (oddAddr a) 4 (bus32 h)
    stale := (pairCells s a).foldl (fun set x => insertAddr x set) t.stale }

/-- `t` with the registers `lo` and `hi` loaded from a long word, zeros below 32 bits. -/
def pairLoaded (s t : State) (a : Word) (lo hi : UReg) : State :=
  let v : Word × Word :=
    if s.region a = .long then ((s.mem.readCell a 8).extractLsb' 0 32, (s.mem.readCell a 8).extractLsb' 32 32)
    else (to32 (s.mem.readCell (evenAddr a) 4), to32 (s.mem.readCell (oddAddr a) 4))
  (t.writeUReg lo (bus32 v.1)).writeUReg hi (bus32 v.2)

/-- `t` with the long word move of a register made, once. -/
def pairMoved (s t : State) (store : Bool) (a : Word) (u : UReg) (p : CondPair) : State :=
  match neighbours u with
  | some (lo, hi) => if p.cx then if store then pairStored s t a lo hi else pairLoaded s t a lo hi else t
  | none => t

/-- The places a long word move writes. -/
def pairPlaces (s : State) (store : Bool) (a : Word) (u : UReg) (p : CondPair) : List Place :=
  match neighbours u with
  | some (lo, hi) => if p.cx then if store then (pairCells s a).map .cell else regPlaces lo ++ regPlaces hi else []
  | none => []

/-- A move without (LW) can be made: of a long word where the map declares the location long, else of normal words. -/
def partMovable (s : State) (store bc : Bool) (a : Word) (u : UReg) (p : CondPair) : Prop :=
  if s.region a = .long then pairMovable s false a u p else movableBoth s store bc a u p

/-- `t` with a move without (LW) made. -/
def partMoved (s t : State) (store bc : Bool) (a : Word) (u : UReg) (p : CondPair) : State :=
  if s.region a = .long then pairMoved s t store a u p else movedBoth s t store bc a u p

/-- The places a move without (LW) writes. -/
def partPlaces (s : State) (store bc : Bool) (a : Word) (u : UReg) (p : CondPair) : List Place :=
  if s.region a = .long then pairPlaces s store a u p else movePlaces s store bc a u p

/-- The places a compute writes: on each element where it runs its result registers, an MR register, ASTAT when it
writes flags, STKY when it sets a sticky bit. -/
def computePlaces (s : State) (c : Compute) (p : CondPair) : List Place :=
  (computeWrites s c p.cx p.cy).flatMap Write.places

/-- The places a shifter-immediate operation writes. -/
def shiftPlaces (s : State) (sh : ShiftImm) (p : CondPair) : List Place :=
  (shiftImmWrites s sh p.cx p.cy).flatMap Write.places

/-- `t` with index register `k` holding `v`, and where the circular buffer wrapped its sticky bit set in STKYx: CB7S for
I7, CB15S for I15 (10_state.md R54, log entry 26). -/
def indexed (t : State) (k : RegNum) (v : Word) (wrapped : Bool) : State :=
  { t with
    i := t.i.set k v
    x := if wrapped then { t.x with stky := t.x.stky ||| overflowBit k } else t.x }

/-- `t` with an index register post-modified, when `go` (R113, R118). -/
def postModified (s t : State) (go : Bool) (k : RegNum) (m : Word) : State :=
  if go then indexed t k (postmod s k m) (cbufen s.mode1 && wraps s k m) else t

/-- The places a post-modify writes. -/
def postPlaces (s : State) (go : Bool) (k : RegNum) (m : Word) : List Place :=
  (postmodWrites s go k m).flatMap Write.places

/-! ### What a branch leaves (41_program_flow.md) -/

/-- A taken jump with (LA) finds a loop to abort, when it pops at once (R265). -/
def canAbort (s : State) (mods : JumpMods) : Prop :=
  mods.loopAbort = true → mods.delayed = false → s.loops ≠ [] ∧ s.pcStack ≠ []

/-- `t` after a taken jump: (CI), the pops of (LA), the branch request (R265 to R267). -/
def jumped (t : State) (mods : JumpMods) (target : ProgAddr) : State :=
  let t := if mods.clearInterrupt then clearInterrupt t else t
  if mods.loopAbort && !mods.delayed then
    requestBranch { t with loops := t.loops.tail, pcStack := t.pcStack.tail } target false false
  else requestBranch t target mods.delayed mods.loopAbort

/-- `t` after a taken call at `s`: the return address pushed, the branch request (R268). -/
def called (t : State) (delayed : Bool) (target : ProgAddr) : State :=
  requestBranch
    { t with
      pcStack := ⟨returnAddr t delayed, .call⟩ :: t.pcStack }
    target delayed false

/-- Where a compute of Types 9 and 11 runs (R263). -/
def elseElements (s : State) (p : CondPair) (else_ : Bool) : CondPair := ⟨p.cx != else_, s.simd && p.cy != else_⟩

/-! ### What a compute may change of its element (10_state.md R51, R54) -/

/-- The ASTAT bits of the ALU: AZ, AV, AN, AC, AS, AI, AF. -/
def aluMask : Word := 0x0000043F#32

/-- The ASTAT bits of the compare accumulation. -/
def compareMask : Word := 0xFF000000#32

/-- The ASTAT bits of the multiplier: MN, MV, MU, MI. -/
def mulMask : Word := 0x000003C0#32

/-- The ASTAT bits of the shifter: SV, SZ, SS. -/
def shiftMask : Word := 0x00003800#32

/-- The ASTAT bits an operation writes. -/
def flagMask : Compute → Word
  | .nop | .clrMr _ => 0#32
  | .fix2 .. | .fix1 .. | .flt2 .. | .flt1 .. | .dualFix .. | .dualFlt .. => aluMask
  | .compFix .. | .compFlt .. => aluMask ||| compareMask
  | .mulRn .. | .mulMr .. | .macRn .. | .macMr .. | .satRn .. | .satMr .. | .rndRn .. | .rndMr .. | .mulFlt ..
  | .putMr .. | .getMr .. => mulMask
  | .shift .. | .btst .. | .field .. | .shift1 .. => shiftMask
  | .mulAluFix .. | .macAluFix .. | .mulAluFlt .. | .mulAbsFlt .. | .mulDualFix .. | .mulDualFlt .. =>
    aluMask ||| mulMask

/-- The STKY bits an operation can set: AOS of fixed-point, AUS, AVS and AIS of floating-point ALU operations; MOS of
fixed-point, MVS and MIS of floating-point products, MUS of both. RND keeps MI and SAT clears MV, so neither sets its
sticky bit. -/
def stickyMask : Compute → Word
  | .fix2 .. | .fix1 .. | .dualFix .. => 0x00000004#32
  | .flt2 .. | .flt1 .. | .compFlt .. | .dualFlt .. => 0x00000023#32
  | .mulRn .. | .mulMr .. | .macRn .. | .macMr .. | .rndRn .. | .rndMr .. => 0x00000140#32
  | .satRn .. | .satMr .. => 0x00000100#32
  | .mulFlt .. => 0x00000380#32
  | .mulAluFix .. | .macAluFix .. | .mulDualFix .. => 0x00000144#32
  | .mulAluFlt .. | .mulAbsFlt .. | .mulDualFlt .. => 0x000003A3#32
  | .nop | .clrMr _ | .compFix .. | .putMr .. | .getMr .. | .shift .. | .btst .. | .field ..
  | .shift1 .. => 0#32

/-- The MR register an operation writes. -/
def mrWritten : Compute → Option MrBank
  | .mulMr dst _ _ _ => some dst
  | .macMr _ acc _ _ _ => some acc
  | .satMr acc _ => some acc
  | .rndMr acc _ => some acc
  | .clrMr acc => some acc
  | .putMr bank _ _ => some bank
  | .macAluFix .. => some .f
  | _ => none

/-! ### The universal registers an instruction may write (10_state.md R50 to R59) -/

/-- The registers of a unit's operation on the elements that are on: data registers, ASTAT, STKY. -/
def unitDests (s : State) (regs : List RegNum) (flags sticky : Word) : List UReg :=
  regs.map .r ++ (if flags = 0#32 then [] else [.sys .astatx]) ++ (if sticky = 0#32 then [] else [.sys .stkyx]) ++
    if s.simd then
      regs.map .s ++ (if flags = 0#32 then [] else [.sys .astaty]) ++ (if sticky = 0#32 then [] else [.sys .stkyy])
    else []

/-- The registers of a compute. -/
def computeDests (s : State) (c : Compute) : List UReg := unitDests s (destRegs c) (flagMask c) (stickyMask c)

/-- The names that read differently after a register is written: PX1 and PX2 with PX, FADDR and DADDR with LADDR, IMASK
with IMASKP. -/
def shownBy : UReg → List UReg
  | .px | .px1 | .px2 => [.px, .px1, .px2]
  | .laddr => [.laddr, .faddr, .daddr]
  | .sys .imaskp => [.sys .imaskp, .sys .imask]
  | u => [u]

/-- The register, or the pair of a long word, that a load at an address writes. -/
def pairDests (s : State) (lw : Bool) (a : Word) (u : UReg) : List UReg :=
  if isLong s lw a then
    match neighbours u with
    | some (lo, hi) => shownBy lo ++ shownBy hi
    | none => []
  else shownBy u

/-- The registers a move writes: nothing for a store; the complement too in SIMD mode and in a broadcast load. -/
def moveDests (s : State) (lw bc : Bool) (ax : Word) (u : UReg) (store : Bool) : List UReg :=
  if store then []
  else
    pairDests s lw ax u ++
      if (s.simd || bc) && !madeOnce s lw ax u then pairDests s lw (yAddr bc ax) (complement u) else []

/-- The registers of a data register move by index `k` at its own address. -/
def dregDests (s : State) (k : RegNum) (mv : DregMove) : List UReg :=
  moveDests s false (broadcast s k) s.i[k] (.r mv.reg) mv.store

/-- A register, and in SIMD mode its complement. -/
def withComplement (s : State) (u : UReg) : List UReg :=
  shownBy u ++ if s.simd && hasComplement u then shownBy (complement u) else []

/-- What shows the PC stack. -/
def pcStackRegs : List UReg := [.pcstk, .pcstkp, .sys .stkyx]

/-- What shows the loop stacks. -/
def loopRegs : List UReg := [.laddr, .curlcntr, .faddr, .daddr, .sys .stkyx]

/-- What the status stack saves, and what shows its depth. -/
def statusRegs : List UReg := [.sys .mode1, .sys .astatx, .sys .astaty, .sys .stkyx]

/-- The interrupt latch and mask pointer. -/
def interruptRegs : List UReg := [.sys .irptl, .sys .imaskp, .sys .imask]

/-- The registers a jump with modifiers writes. -/
def jumpDests (mods : JumpMods) : List UReg :=
  (if mods.loopAbort then pcStackRegs ++ loopRegs else []) ++ if mods.clearInterrupt then interruptRegs else []

/-- What an update of an index register writes: the register, and for I7 and I15 the sticky bit of a wrap. -/
def indexDests (k : RegNum) : List UReg := .i k :: if overflowBit k = 0#32 then [] else [.sys .stkyx]

/-- Every universal register, by the names of PEx and PEy, that an instruction may write or change the reading of. -/
def destinations (i : Instr) (s : State) : List UReg :=
  match i with
  | .dualMove c dm pm =>
    computeDests s c ++ dregDests s (Dag.dm.reg dm.i) dm ++ dregDests s (Dag.pm.reg pm.i) pm ++
      indexDests (Dag.dm.reg dm.i) ++ indexDests (Dag.pm.reg pm.i)
  | .ifCompute _ c => computeDests s c
  | .uregMove _ c g post i m store long u =>
    computeDests s c ++
      moveDests s long (broadcast s (g.reg i)) (indexAddr s post (g.reg i) (modifier s g m)) u store ++
      if post then indexDests (g.reg i) else []
  | .dregMoveImm _ c g post i data store reg =>
    computeDests s c ++
      moveDests s false (broadcast s (g.reg i)) (indexAddr s post (g.reg i) (data.signExtend 32)) (.r reg) store ++
      if post then indexDests (g.reg i) else []
  | .uregToUreg _ c dst _ => computeDests s c ++ withComplement s dst
  | .swap _ c xreg yreg => computeDests s c ++ [.r xreg, .s yreg]
  | .shiftImmMove _ sh g mv =>
    unitDests s (destRegsImm sh) shiftMask 0#32 ++ dregDests s (g.reg mv.i) mv ++ indexDests (g.reg mv.i)
  | .shiftImm _ sh => unitDests s (destRegsImm sh) shiftMask 0#32
  | .modifyReg _ c g i _ => computeDests s c ++ indexDests (g.reg i)
  | .jumpAbs _ mods _ => jumpDests mods
  | .jumpRel _ mods _ => jumpDests mods
  | .callAbs .. => pcStackRegs
  | .callRel .. => pcStackRegs
  | .jumpInd _ mods _ _ _ c => computeDests s c ++ jumpDests mods
  | .jumpRel6 _ mods _ _ c => computeDests s c ++ jumpDests mods
  | .callInd _ _ _ _ _ c => computeDests s c ++ pcStackRegs
  | .callRel6 _ _ _ _ c => computeDests s c ++ pcStackRegs
  | .jumpIndElse _ _ _ c mv => computeDests s c ++ dregDests s (Dag.dm.reg mv.i) mv ++ indexDests (Dag.dm.reg mv.i)
  | .jumpRelElse _ _ c mv => computeDests s c ++ dregDests s (Dag.dm.reg mv.i) mv ++ indexDests (Dag.dm.reg mv.i)
  | .rts _ _ _ _ c => computeDests s c ++ pcStackRegs
  | .rti _ _ _ c => computeDests s c ++ pcStackRegs ++ statusRegs ++ interruptRegs
  | .doCountImm .. => .lcntr :: pcStackRegs ++ loopRegs
  | .doCountReg .. => .lcntr :: pcStackRegs ++ loopRegs
  | .doUntil .. => pcStackRegs ++ loopRegs
  | .storeDirect .. => []
  | .loadDirect _ long u addr => moveDests s long false addr u false
  | .storeIndexed .. => []
  | .loadIndexed g i long u data => moveDests s long (broadcast s (g.reg i)) (s.i[g.reg i] + data) u false
  | .storeImm g i _ _ => indexDests (g.reg i)
  | .loadImm u _ => withComplement s u
  | .bitSet reg _ => withComplement s (.sys reg)
  | .bitClr reg _ => withComplement s (.sys reg)
  | .bitTgl reg _ => withComplement s (.sys reg)
  | .bitTst .. => withComplement s (.sys .astatx)
  | .bitXor .. => withComplement s (.sys .astatx)
  | .modifyImm g i _ => indexDests (g.reg i)
  | .bitrev g i _ => indexDests (g.reg i)
  | .pushPcstk _ => pcStackRegs
  | .pushLoop sts pcstk _ => loopRegs ++ (if sts then statusRegs else []) ++ if pcstk then pcStackRegs else []
  | .pushSts pcstk _ => statusRegs ++ if pcstk then pcStackRegs else []
  | .popLoop sts pcstk _ => loopRegs ++ (if sts then statusRegs else []) ++ if pcstk then pcStackRegs else []
  | .popSts pcstk _ => statusRegs ++ if pcstk then pcStackRegs else []
  | .popPcstk _ => pcStackRegs
  | .cjumpAbs _ => [.r 2, .i 6] ++ if s.simd then [.s 2] else []
  | .cjumpRel _ => [.r 2, .i 6] ++ if s.simd then [.s 2] else []
  | .rframe => [.i 7, .i 6]
  | _ => computeDests s i.compute

end Sys2Proof.Machine
end

