-- ==== Sys2Proof/Certificates/Slice0/Obligations.lean ====
section
/-! DEFINITION. The statements about the machine, for the provers. -/

open Sys2Proof Sys2Proof.Machine

/-! ### The fixed-point ALU (44_alu_fixed.md) -/

/-- R361 to R365, R368 to R376, R370, R382 to R384: the fixed-point operations that add, subtract or compare to choose.
Each answers a next state. The ten that go through the adder write the exact sum, saturated in saturation mode, with the
flags of that sum; CI is AC before the operation. Minimum, maximum and clip write the chosen number with `logic_flags`.
The average is the exact signed sum halved, toward minus infinity when MODE1.TRUNC is 1 and otherwise to the nearest
integer, an even one on a tie; AC is the adder's carry, AV is 0. That the operands of MIN and MAX are signed (R382), the
readings of the average (D31) and that AF is cleared (R360) are the spec's own choices. -/
def Obligations.FixedArithmetic : Prop :=
  ∀ (s : State) (rn rx ry : RegNum),
    exec (.addFix rn rx ry) s = .next (onElements s fun p =>
      let v := (p.fx rx).toInt + (p.fx ry).toInt
      aluTo p rn (sumOut s.mode1 v) (sumFlags s.mode1 v (decide (2 ^ 32 ≤ (p.fx rx).toNat + (p.fx ry).toNat)))) ∧
    exec (.subFix rn rx ry) s = .next (onElements s fun p =>
      let v := (p.fx rx).toInt - (p.fx ry).toInt
      aluTo p rn (sumOut s.mode1 v) (sumFlags s.mode1 v (decide ((p.fx ry).toNat ≤ (p.fx rx).toNat)))) ∧
    exec (.addCi rn rx ry) s = .next (onElements s fun p =>
      let ci := (acOf p.astat).toNat
      let v := (p.fx rx).toInt + (p.fx ry).toInt + ci
      aluTo p rn (sumOut s.mode1 v)
        (sumFlags s.mode1 v (decide (2 ^ 32 ≤ (p.fx rx).toNat + (p.fx ry).toNat + ci)))) ∧
    exec (.subCi rn rx ry) s = .next (onElements s fun p =>
      let ci := (acOf p.astat).toNat
      let v := (p.fx rx).toInt - (p.fx ry).toInt + ci - 1
      aluTo p rn (sumOut s.mode1 v) (sumFlags s.mode1 v (decide ((p.fx ry).toNat + 1 ≤ (p.fx rx).toNat + ci)))) ∧
    exec (.incCi rn rx) s = .next (onElements s fun p =>
      let ci := (acOf p.astat).toNat
      let v := (p.fx rx).toInt + ci
      aluTo p rn (sumOut s.mode1 v) (sumFlags s.mode1 v (decide (2 ^ 32 ≤ (p.fx rx).toNat + ci)))) ∧
    exec (.decCi rn rx) s = .next (onElements s fun p =>
      let ci := (acOf p.astat).toNat
      let v := (p.fx rx).toInt + ci - 1
      aluTo p rn (sumOut s.mode1 v) (sumFlags s.mode1 v (decide (1 ≤ (p.fx rx).toNat + ci)))) ∧
    exec (.incFix rn rx) s = .next (onElements s fun p =>
      let v := (p.fx rx).toInt + 1
      aluTo p rn (sumOut s.mode1 v) (sumFlags s.mode1 v (decide (p.fx rx = 0xFFFFFFFF#32)))) ∧
    exec (.decFix rn rx) s = .next (onElements s fun p =>
      let v := (p.fx rx).toInt - 1
      aluTo p rn (sumOut s.mode1 v) (sumFlags s.mode1 v (decide (p.fx rx ≠ 0#32)))) ∧
    exec (.negFix rn rx) s = .next (onElements s fun p =>
      let v := -(p.fx rx).toInt
      aluTo p rn (sumOut s.mode1 v) (sumFlags s.mode1 v (decide (p.fx rx = 0#32)))) ∧
    exec (.absFix rn rx) s = .next (onElements s fun p =>
      let v : Int := (p.fx rx).toInt.natAbs
      aluTo p rn (sumOut s.mode1 v) { sumFlags s.mode1 v false with as := decide ((p.fx rx).toInt < 0) }) ∧
    exec (.minFix rn rx ry) s = .next (onElements s fun p =>
      let out := BitVec.ofInt 32 (min (p.fx rx).toInt (p.fx ry).toInt)
      aluTo p rn out (logicFlags out)) ∧
    exec (.maxFix rn rx ry) s = .next (onElements s fun p =>
      let out := BitVec.ofInt 32 (max (p.fx rx).toInt (p.fx ry).toInt)
      aluTo p rn out (logicFlags out)) ∧
    exec (.clipFix rn rx ry) s = .next (onElements s fun p =>
      let u := (p.fx rx).toInt
      let d : Int := (p.fx ry).toInt.natAbs
      let out := BitVec.ofInt 32 (max (-d) (min u d))
      aluTo p rn out (logicFlags out)) ∧
    ∃ q : Pe → Int,
      (∀ p, truncMode s.mode1 = true →
        2 * q p ≤ (p.fx rx).toInt + (p.fx ry).toInt ∧ (p.fx rx).toInt + (p.fx ry).toInt < 2 * q p + 2) ∧
      (∀ p, truncMode s.mode1 = false →
        2 * q p - 1 ≤ (p.fx rx).toInt + (p.fx ry).toInt ∧ (p.fx rx).toInt + (p.fx ry).toInt ≤ 2 * q p + 1 ∧
          ((p.fx rx).toInt + (p.fx ry).toInt ≠ 2 * q p → q p % 2 = 0)) ∧
      exec (.avgFix rn rx ry) s = .next (onElements s fun p =>
        let out := BitVec.ofInt 32 (q p)
        aluTo p rn out { logicFlags out with ac := decide (2 ^ 32 ≤ (p.fx rx).toNat + (p.fx ry).toNat) })

/-- R366, R367, R377 to R381: a compare writes no register; AZ is equal, AN is smaller, and the result enters the compare
accumulation at bit 31, shifting bits 31 to 24 right; COMP compares as signed, COMPU as unsigned numbers. Pass, and, or,
exclusive or and complement write the result bit by bit, with zeros in the extension field and the flags of
`logic_flags`. That both clear AF (R51, R360, R363) and the places of the flags in ASTAT (log entry 9) are the spec's
general knowledge and decisions D1 to D3 and D10. -/
def Obligations.FixedCompareAndLogic : Prop :=
  ∀ (s : State) (rn rx ry : RegNum),
    exec (.compFix rx ry) s = .next (onElements s fun p =>
      let u := (p.fx rx).toInt
      let v := (p.fx ry).toInt
      withAlu { p with astat := BitVec.ofBool (decide (v < u)) ++ (p.astat.extractLsb' 25 7 ++ p.astat.extractLsb' 0 24) }
        { az := decide (u = v), au := false, an := decide (u < v), av := false, ac := false, as := false, ai := false,
          af := false }) ∧
    exec (.compuFix rx ry) s = .next (onElements s fun p =>
      let u := (p.fx rx).toNat
      let v := (p.fx ry).toNat
      withAlu { p with astat := BitVec.ofBool (decide (v < u)) ++ (p.astat.extractLsb' 25 7 ++ p.astat.extractLsb' 0 24) }
        { az := decide (u = v), au := false, an := decide (u < v), av := false, ac := false, as := false, ai := false,
          af := false }) ∧
    exec (.passFix rn rx) s = .next (onElements s fun p => aluTo p rn (p.fx rx) (logicFlags (p.fx rx))) ∧
    exec (.andFix rn rx ry) s =
      .next (onElements s fun p => aluTo p rn (p.fx rx &&& p.fx ry) (logicFlags (p.fx rx &&& p.fx ry))) ∧
    exec (.orFix rn rx ry) s =
      .next (onElements s fun p => aluTo p rn (p.fx rx ||| p.fx ry) (logicFlags (p.fx rx ||| p.fx ry))) ∧
    exec (.xorFix rn rx ry) s =
      .next (onElements s fun p => aluTo p rn (p.fx rx ^^^ p.fx ry) (logicFlags (p.fx rx ^^^ p.fx ry))) ∧
    exec (.notFix rn rx) s = .next (onElements s fun p => aluTo p rn (~~~p.fx rx) (logicFlags (~~~p.fx rx)))

/-! ### The computes that run (45_alu_float.md, 46_multiplier.md, 47_shifter.md, 48_multifunction.md) -/

/-- R403, R450, R490, R530, R223: each of the 25 floating-point ALU, 34 multiplier, 21 shifter and 26 multifunction
operations answers a next state, in every mode and for every operand and modifier (a multifunction one when its results
go to different registers): the state with the operation done on PEx and, in SIMD mode, on PEy, and nothing else
changed. -/
def Obligations.ComputesRun : Prop :=
  ∀ (s : State) (m : Mod2) (n : Mod1) (sg : Bool) (rn rx ry rk : RegNum) (rs rm ra : RegNum) (mi : MfMulIn)
    (ai : MfAluIn) (xa : Fin 4),
    exec (.addFlt rn rx ry) s = .next (computed s (.flt2 .add rn rx ry) (allElements s)) ∧
    exec (.subFlt rn rx ry) s = .next (computed s (.flt2 .sub rn rx ry) (allElements s)) ∧
    exec (.absAddFlt rn rx ry) s = .next (computed s (.flt2 .absAdd rn rx ry) (allElements s)) ∧
    exec (.absSubFlt rn rx ry) s = .next (computed s (.flt2 .absSub rn rx ry) (allElements s)) ∧
    exec (.avgFlt rn rx ry) s = .next (computed s (.flt2 .avg rn rx ry) (allElements s)) ∧
    exec (.compFlt rx ry) s = .next (computed s (.compFlt rx ry) (allElements s)) ∧
    exec (.negFlt rn rx) s = .next (computed s (.flt1 .neg rn rx) (allElements s)) ∧
    exec (.absFlt rn rx) s = .next (computed s (.flt1 .abs rn rx) (allElements s)) ∧
    exec (.passFlt rn rx) s = .next (computed s (.flt1 .pass rn rx) (allElements s)) ∧
    exec (.rndFlt rn rx) s = .next (computed s (.flt1 .rnd rn rx) (allElements s)) ∧
    exec (.scalb rn rx ry) s = .next (computed s (.flt2 .scalb rn rx ry) (allElements s)) ∧
    exec (.mant rn rx) s = .next (computed s (.flt1 .mant rn rx) (allElements s)) ∧
    exec (.logb rn rx) s = .next (computed s (.flt1 .logb rn rx) (allElements s)) ∧
    exec (.fix rn rx) s = .next (computed s (.flt1 .fix rn rx) (allElements s)) ∧
    exec (.fixBy rn rx ry) s = .next (computed s (.flt2 .fixBy rn rx ry) (allElements s)) ∧
    exec (.trunc rn rx) s = .next (computed s (.flt1 .trunc rn rx) (allElements s)) ∧
    exec (.truncBy rn rx ry) s = .next (computed s (.flt2 .truncBy rn rx ry) (allElements s)) ∧
    exec (.floatBy rn rx ry) s = .next (computed s (.flt2 .floatBy rn rx ry) (allElements s)) ∧
    exec (.float rn rx) s = .next (computed s (.flt1 .float rn rx) (allElements s)) ∧
    exec (.recips rn rx) s = .next (computed s (.flt1 .recips rn rx) (allElements s)) ∧
    exec (.rsqrts rn rx) s = .next (computed s (.flt1 .rsqrts rn rx) (allElements s)) ∧
    exec (.copysign rn rx ry) s = .next (computed s (.flt2 .copysign rn rx ry) (allElements s)) ∧
    exec (.minFlt rn rx ry) s = .next (computed s (.flt2 .min rn rx ry) (allElements s)) ∧
    exec (.maxFlt rn rx ry) s = .next (computed s (.flt2 .max rn rx ry) (allElements s)) ∧
    exec (.clipFlt rn rx ry) s = .next (computed s (.flt2 .clip rn rx ry) (allElements s)) ∧
    exec (.mulRn m rn rx ry) s = .next (computed s (.mulRn m rn rx ry) (allElements s)) ∧
    exec (.mulMrf m rx ry) s = .next (computed s (.mulMr .f m rx ry) (allElements s)) ∧
    exec (.mulMrb m rx ry) s = .next (computed s (.mulMr .b m rx ry) (allElements s)) ∧
    exec (.macRnMrf m rn rx ry) s = .next (computed s (.macRn false .f m rn rx ry) (allElements s)) ∧
    exec (.macRnMrb m rn rx ry) s = .next (computed s (.macRn false .b m rn rx ry) (allElements s)) ∧
    exec (.macMrf m rx ry) s = .next (computed s (.macMr false .f m rx ry) (allElements s)) ∧
    exec (.macMrb m rx ry) s = .next (computed s (.macMr false .b m rx ry) (allElements s)) ∧
    exec (.msuRnMrf m rn rx ry) s = .next (computed s (.macRn true .f m rn rx ry) (allElements s)) ∧
    exec (.msuRnMrb m rn rx ry) s = .next (computed s (.macRn true .b m rn rx ry) (allElements s)) ∧
    exec (.msuMrf m rx ry) s = .next (computed s (.macMr true .f m rx ry) (allElements s)) ∧
    exec (.msuMrb m rx ry) s = .next (computed s (.macMr true .b m rx ry) (allElements s)) ∧
    exec (.satRnMrf n rn) s = .next (computed s (.satRn .f n rn) (allElements s)) ∧
    exec (.satRnMrb n rn) s = .next (computed s (.satRn .b n rn) (allElements s)) ∧
    exec (.satMrf n) s = .next (computed s (.satMr .f n) (allElements s)) ∧
    exec (.satMrb n) s = .next (computed s (.satMr .b n) (allElements s)) ∧
    exec (.rndRnMrf sg rn) s = .next (computed s (.rndRn .f sg rn) (allElements s)) ∧
    exec (.rndRnMrb sg rn) s = .next (computed s (.rndRn .b sg rn) (allElements s)) ∧
    exec (.rndMrf sg) s = .next (computed s (.rndMr .f sg) (allElements s)) ∧
    exec (.rndMrb sg) s = .next (computed s (.rndMr .b sg) (allElements s)) ∧
    exec .clrMrf s = .next (computed s (.clrMr .f) (allElements s)) ∧
    exec .clrMrb s = .next (computed s (.clrMr .b) (allElements s)) ∧
    exec (.mulFlt rn rx ry) s = .next (computed s (.mulFlt rn rx ry) (allElements s)) ∧
    exec (.putMr0f rk) s = .next (computed s (.putMr .f .mr0 rk) (allElements s)) ∧
    exec (.putMr1f rk) s = .next (computed s (.putMr .f .mr1 rk) (allElements s)) ∧
    exec (.putMr2f rk) s = .next (computed s (.putMr .f .mr2 rk) (allElements s)) ∧
    exec (.putMr0b rk) s = .next (computed s (.putMr .b .mr0 rk) (allElements s)) ∧
    exec (.putMr1b rk) s = .next (computed s (.putMr .b .mr1 rk) (allElements s)) ∧
    exec (.putMr2b rk) s = .next (computed s (.putMr .b .mr2 rk) (allElements s)) ∧
    exec (.getMr0f rk) s = .next (computed s (.getMr .f .mr0 rk) (allElements s)) ∧
    exec (.getMr1f rk) s = .next (computed s (.getMr .f .mr1 rk) (allElements s)) ∧
    exec (.getMr2f rk) s = .next (computed s (.getMr .f .mr2 rk) (allElements s)) ∧
    exec (.getMr0b rk) s = .next (computed s (.getMr .b .mr0 rk) (allElements s)) ∧
    exec (.getMr1b rk) s = .next (computed s (.getMr .b .mr1 rk) (allElements s)) ∧
    exec (.getMr2b rk) s = .next (computed s (.getMr .b .mr2 rk) (allElements s)) ∧
    exec (.lshift rn rx ry) s = .next (computed s (.shift .lshift rn rx ry) (allElements s)) ∧
    exec (.orLshift rn rx ry) s = .next (computed s (.shift .orLshift rn rx ry) (allElements s)) ∧
    exec (.ashift rn rx ry) s = .next (computed s (.shift .ashift rn rx ry) (allElements s)) ∧
    exec (.orAshift rn rx ry) s = .next (computed s (.shift .orAshift rn rx ry) (allElements s)) ∧
    exec (.rot rn rx ry) s = .next (computed s (.shift .rot rn rx ry) (allElements s)) ∧
    exec (.bclr rn rx ry) s = .next (computed s (.shift .bclr rn rx ry) (allElements s)) ∧
    exec (.bset rn rx ry) s = .next (computed s (.shift .bset rn rx ry) (allElements s)) ∧
    exec (.btgl rn rx ry) s = .next (computed s (.shift .btgl rn rx ry) (allElements s)) ∧
    exec (.btst rx ry) s = .next (computed s (.btst rx ry) (allElements s)) ∧
    exec (.fdep rn rx ry) s = .next (computed s (.field .fdep rn rx ry) (allElements s)) ∧
    exec (.orFdep rn rx ry) s = .next (computed s (.field .orFdep rn rx ry) (allElements s)) ∧
    exec (.fdepSe rn rx ry) s = .next (computed s (.field .fdepSe rn rx ry) (allElements s)) ∧
    exec (.orFdepSe rn rx ry) s = .next (computed s (.field .orFdepSe rn rx ry) (allElements s)) ∧
    exec (.fext rn rx ry) s = .next (computed s (.field .fext rn rx ry) (allElements s)) ∧
    exec (.fextSe rn rx ry) s = .next (computed s (.field .fextSe rn rx ry) (allElements s)) ∧
    exec (.exp rn rx) s = .next (computed s (.shift1 .exp rn rx) (allElements s)) ∧
    exec (.expEx rn rx) s = .next (computed s (.shift1 .expEx rn rx) (allElements s)) ∧
    exec (.leftz rn rx) s = .next (computed s (.shift1 .leftz rn rx) (allElements s)) ∧
    exec (.lefto rn rx) s = .next (computed s (.shift1 .lefto rn rx) (allElements s)) ∧
    exec (.fpack rn rx) s = .next (computed s (.shift1 .fpack rn rx) (allElements s)) ∧
    exec (.funpack rn rx) s = .next (computed s (.shift1 .funpack rn rx) (allElements s)) ∧
    (ra ≠ rs →
      exec (.dualFix ra rs rx ry) s = .next (computed s (.dualFix ra rs rx ry) (allElements s))) ∧
    (ra ≠ rs →
      exec (.dualFlt ra rs rx ry) s = .next (computed s (.dualFlt ra rs rx ry) (allElements s))) ∧
    (rm ≠ ra →
      exec (.mulRnAdd rm ra mi ai) s = .next (computed s (.mulAluFix .mul .add rm ra mi ai) (allElements s))) ∧
    (rm ≠ ra →
      exec (.mulRnSub rm ra mi ai) s = .next (computed s (.mulAluFix .mul .sub rm ra mi ai) (allElements s))) ∧
    (rm ≠ ra →
      exec (.mulRnAvg rm ra mi ai) s = .next (computed s (.mulAluFix .mul .avg rm ra mi ai) (allElements s))) ∧
    exec (.macMrfAdd ra mi ai) s = .next (computed s (.macAluFix false .add ra mi ai) (allElements s)) ∧
    exec (.macMrfSub ra mi ai) s = .next (computed s (.macAluFix false .sub ra mi ai) (allElements s)) ∧
    exec (.macMrfAvg ra mi ai) s = .next (computed s (.macAluFix false .avg ra mi ai) (allElements s)) ∧
    (rm ≠ ra →
      exec (.macRnAdd rm ra mi ai) s = .next (computed s (.mulAluFix .mac .add rm ra mi ai) (allElements s))) ∧
    (rm ≠ ra →
      exec (.macRnSub rm ra mi ai) s = .next (computed s (.mulAluFix .mac .sub rm ra mi ai) (allElements s))) ∧
    (rm ≠ ra →
      exec (.macRnAvg rm ra mi ai) s = .next (computed s (.mulAluFix .mac .avg rm ra mi ai) (allElements s))) ∧
    exec (.msuMrfAdd ra mi ai) s = .next (computed s (.macAluFix true .add ra mi ai) (allElements s)) ∧
    exec (.msuMrfSub ra mi ai) s = .next (computed s (.macAluFix true .sub ra mi ai) (allElements s)) ∧
    exec (.msuMrfAvg ra mi ai) s = .next (computed s (.macAluFix true .avg ra mi ai) (allElements s)) ∧
    (rm ≠ ra →
      exec (.msuRnAdd rm ra mi ai) s = .next (computed s (.mulAluFix .msu .add rm ra mi ai) (allElements s))) ∧
    (rm ≠ ra →
      exec (.msuRnSub rm ra mi ai) s = .next (computed s (.mulAluFix .msu .sub rm ra mi ai) (allElements s))) ∧
    (rm ≠ ra →
      exec (.msuRnAvg rm ra mi ai) s = .next (computed s (.mulAluFix .msu .avg rm ra mi ai) (allElements s))) ∧
    (rm ≠ ra →
      exec (.fmulAdd rm ra mi ai) s = .next (computed s (.mulAluFlt .add rm ra mi ai) (allElements s))) ∧
    (rm ≠ ra →
      exec (.fmulSub rm ra mi ai) s = .next (computed s (.mulAluFlt .sub rm ra mi ai) (allElements s))) ∧
    (rm ≠ ra →
      exec (.fmulFloat rm ra mi ai) s = .next (computed s (.mulAluFlt .float rm ra mi ai) (allElements s))) ∧
    (rm ≠ ra →
      exec (.fmulFix rm ra mi ai) s = .next (computed s (.mulAluFlt .fix rm ra mi ai) (allElements s))) ∧
    (rm ≠ ra →
      exec (.fmulAbs rm ra mi xa) s = .next (computed s (.mulAbsFlt rm ra mi xa) (allElements s))) ∧
    (rm ≠ ra →
      exec (.fmulMax rm ra mi ai) s = .next (computed s (.mulAluFlt .max rm ra mi ai) (allElements s))) ∧
    (rm ≠ ra →
      exec (.fmulMin rm ra mi ai) s = .next (computed s (.mulAluFlt .min rm ra mi ai) (allElements s))) ∧
    (rm ≠ ra → rm ≠ rs → ra ≠ rs →
      exec (.mulDualFix rs rm ra mi ai) s = .next (computed s (.mulDualFix rs rm ra mi ai) (allElements s))) ∧
    (rm ≠ ra → rm ≠ rs → ra ≠ rs →
      exec (.mulDualFlt rs rm ra mi ai) s = .next (computed s (.mulDualFlt rs rm ra mi ai) (allElements s)))

/-- R530, U4: a computation that names one register for two results is refused, on its own or with a condition, in
parallel with an index modify, a jump, a call or a return, where it runs on some element; ELSE runs it where the
condition is false. Where it runs on no element the instruction does what it does without it. Beside a move it is one
case of the doubled places of DualMove, IndexedMoves, RegisterMoves and JumpOrMove. -/
def Obligations.DoubledDestination : Prop :=
  ∀ (s : State) (c : Compute), ¬ (destRegs c).Nodup →
    exec (Instr.ofCompute c) s = .refused .doubleWrite ∧
    ∀ (cond : Cond) (p : CondPair) (els : Bool), evalCond s cond = .ok p →
      let stops (runs : CondPair) (withC : Compute → Instr) : Prop :=
        exec (withC c) s = if runs.cx || runs.cy then .refused .doubleWrite else exec (withC .nop) s
      let other := elseElements s p els
      stops p (fun c => .ifCompute cond c) ∧
      (∀ g i m, stops p (fun c => .modifyReg cond c g i m)) ∧
      (∀ mods i m, stops other (fun c => .jumpInd cond mods els i m c)) ∧
      (∀ mods rel, stops other (fun c => .jumpRel6 cond mods els rel c)) ∧
      (∀ delayed i m, stops other (fun c => .callInd cond delayed els i m c)) ∧
      (∀ delayed rel, stops other (fun c => .callRel6 cond delayed els rel c)) ∧
      (∀ delayed lr, stops other (fun c => .rts cond delayed els lr c)) ∧
      ∀ delayed, stops other (fun c => .rti cond delayed els c)

/-- R530, R535 to R544: in a multiplier and ALU computation, fixed-point or floating-point, accumulating or with a dual
add and subtract, each unit does what it does alone: the multiplier's registers, its four ASTAT flags and MRF as after
the multiplier operation, the ALU's registers and flags as after the ALU operation, the sticky bits of both. The sources
are R0 to R3, R4 to R7, R8 to R11, R12 to R15; the fixed-point products are (SSFR) into a register and (SSF) into MRF.
That each unit does so is the spec's reading D42. -/
def Obligations.ParallelUnits : Prop :=
  ∀ (env : Env) (p : Pe) (rs rm ra : RegNum) (mi : MfMulIn) (ai : MfAluIn), rm ≠ ra → rm ≠ rs → ra ≠ rs →
    let xm : RegNum := Fin.ofNat 16 mi.xm.val
    let ym : RegNum := Fin.ofNat 16 (4 + mi.ym.val)
    let xa : RegNum := Fin.ofNat 16 (8 + ai.xa.val)
    let ya : RegNum := Fin.ofNat 16 (12 + ai.ya.val)
    let ssfr : Mod2 := ⟨true, true, .rounded⟩
    let ssf : Mod2 := ⟨true, true, .fractional⟩
    let fixOps : List (MfFixOp × FixOp2) := [(.add, .add), (.sub, .sub), (.avg, .avg)]
    let fltOps : List (MfFltOp × FltOp2) :=
      [(.add, .add), (.sub, .sub), (.float, .floatBy), (.fix, .fixBy), (.max, .max), (.min, .min)]
    let beside (c mul alu : Compute) : Prop :=
      let q := p.apply (evalCompute c env p)
      let qm := p.apply (evalCompute mul env p)
      let qa := p.apply (evalCompute alu env p)
      (∀ n ∈ destRegs mul, q.rf[n] = qm.rf[n]) ∧ (∀ n ∈ destRegs alu, q.rf[n] = qa.rf[n]) ∧
        (∀ n : RegNum, n ∉ destRegs mul → n ∉ destRegs alu → q.rf[n] = p.rf[n]) ∧
        (∀ k, 6 ≤ k → k ≤ 9 → q.astat.getLsbD k = qm.astat.getLsbD k) ∧
        (∀ k, k ≤ 5 ∨ k = 10 → q.astat.getLsbD k = qa.astat.getLsbD k) ∧
        (∀ k, 11 ≤ k → q.astat.getLsbD k = p.astat.getLsbD k) ∧
        q.stky = qm.stky ||| qa.stky ∧ q.au = qa.au ∧ q.mrf = qm.mrf ∧ q.mrb = p.mrb
    (∀ f ∈ fixOps,
      beside (.mulAluFix .mul f.1 rm ra mi ai) (.mulRn ssfr rm xm ym) (.fix2 f.2 ra xa ya) ∧
      beside (.mulAluFix .mac f.1 rm ra mi ai) (.macRn false .f ssfr rm xm ym) (.fix2 f.2 ra xa ya) ∧
      beside (.mulAluFix .msu f.1 rm ra mi ai) (.macRn true .f ssfr rm xm ym) (.fix2 f.2 ra xa ya) ∧
      beside (.macAluFix false f.1 ra mi ai) (.macMr false .f ssf xm ym) (.fix2 f.2 ra xa ya) ∧
      beside (.macAluFix true f.1 ra mi ai) (.macMr true .f ssf xm ym) (.fix2 f.2 ra xa ya)) ∧
    (∀ f ∈ fltOps, beside (.mulAluFlt f.1 rm ra mi ai) (.mulFlt rm xm ym) (.flt2 f.2 ra xa ya)) ∧
    beside (.mulAbsFlt rm ra mi ai.xa) (.mulFlt rm xm ym) (.flt1 .abs ra xa) ∧
    beside (.mulDualFix rs rm ra mi ai) (.mulRn ssfr rm xm ym) (.dualFix ra rs xa ya) ∧
    beside (.mulDualFlt rs rm ra mi ai) (.mulFlt rm xm ym) (.dualFlt ra rs xa ya)

/-- R532, R533: the dual add and subtract writes the sum and the difference as the two single operations do, fixed-point
saturated under ALUSAT, floating-point rounded. Each flag is the OR of the two, the sticky bits too; AN of a
floating-point one only when neither result is invalid (U15). -/
def Obligations.DualAddSubtract : Prop :=
  ∀ (s : State) (ra rs rx ry : RegNum), ra ≠ rs →
    exec (.dualFix ra rs rx ry) s = .next (onElements s fun p =>
      let u := (p.fx rx).toInt + (p.fx ry).toInt
      let v := (p.fx rx).toInt - (p.fx ry).toInt
      let f := sumFlags s.mode1 u (decide (2 ^ 32 ≤ (p.fx rx).toNat + (p.fx ry).toNat))
      let g := sumFlags s.mode1 v (decide ((p.fx ry).toNat ≤ (p.fx rx).toNat))
      withAlu { p with rf := (p.rf.set ra (toFx (sumOut s.mode1 u))).set rs (toFx (sumOut s.mode1 v)) }
        { az := f.az || g.az, au := false, an := f.an || g.an, av := f.av || g.av, ac := f.ac || g.ac, as := false,
          ai := false, af := false }) ∧
    ∀ (env : Env) (p : Pe),
      let q := p.apply (evalCompute (.dualFlt ra rs rx ry) env p)
      let qa := p.apply (evalCompute (.flt2 .add ra rx ry) env p)
      let qs := p.apply (evalCompute (.flt2 .sub rs rx ry) env p)
      q.rf[ra] = qa.rf[ra] ∧ q.rf[rs] = qs.rf[rs] ∧ (∀ n : RegNum, n ≠ ra → n ≠ rs → q.rf[n] = p.rf[n]) ∧
        (∀ k ∈ [0, 1, 5], q.astat.getLsbD k = (qa.astat.getLsbD k || qs.astat.getLsbD k)) ∧
        (q.astat.getLsbD 5 = false → anOf q.astat = (anOf qa.astat || anOf qs.astat)) ∧
        acOf q.astat = false ∧ q.astat.getLsbD 4 = false ∧ afOf q.astat = true ∧
        (∀ k, 6 ≤ k → k ≠ 10 → q.astat.getLsbD k = p.astat.getLsbD k) ∧
        q.stky = qa.stky ||| qs.stky ∧ q.au = (qa.au || qs.au) ∧ q.mrf = p.mrf ∧ q.mrb = p.mrb

/-! ### The floating-point ALU, results (45_alu_float.md) -/

/-- R402, R403: a NaN in either floating-point operand gives the all ones result with AI set and its sticky bit, AF set
and AZ, AU, AV, AC and AS clear; nothing else changes. AN is cleared by ABS, MANT and RSQRTS and is the operand's sign
for RECIPS; elsewhere it may be anything (U15). A compare with a NaN sets AI, writes no register, and takes AZ and AN
from anywhere, its accumulation from them. Operands read as fixed-point numbers (the scale of SCALB, FIX BY and TRUNC
BY, both of FLOAT BY) are no NaN. -/
def Obligations.NanInNanOut : Prop :=
  ∀ (env : Env) (p : Pe) (rn rx ry : RegNum),
    let nan (n : RegNum) : Prop := fclass p.rf[n] = .nan
    let two (op : FltOp2) : Pe := p.apply (evalCompute (.flt2 op rn rx ry) env p)
    let one (op : FltOp1) : Pe := p.apply (evalCompute (.flt1 op rn rx) env p)
    (nan rx → ∀ op : FltOp2, op ≠ .floatBy → invalidOut p (two op) rn false) ∧
    (nan ry → ∀ op ∈ [FltOp2.add, .sub, .absAdd, .absSub, .avg, .copysign, .min, .max, .clip],
      invalidOut p (two op) rn false) ∧
    (nan rx → ∀ op : FltOp1, op ≠ .float → invalidOut p (one op) rn false) ∧
    (nan rx ∨ nan ry → ∀ op ∈ [FltOp2.absAdd, .absSub], anOf (two op).astat = false) ∧
    (nan rx → (∀ op ∈ [FltOp1.abs, .mant, .rsqrts], anOf (one op).astat = false) ∧
      anOf (one .recips).astat = p.rf[rx].getLsbD 39) ∧
    (nan rx ∨ nan ry → ∃ eq lt : Bool,
      p.apply (evalCompute (.compFlt rx ry) env p) =
        withAlu
          { p with astat := BitVec.ofBool (!eq && !lt) ++ (p.astat.extractLsb' 25 7 ++ p.astat.extractLsb' 0 24) }
          { az := eq, au := false, an := lt, av := false, ac := false, as := false, ai := true, af := true })

/-- R411 to R413, R427 to R430: the operations that choose or change a sign without rounding, for operands that are no
NaN, a denormal counting as the Zero of its sign. Negate, absolute value and pass complement, clear or keep the sign;
COPYSIGN takes it from Fy; MIN and MAX choose by value, of two Zeros MIN the negative and MAX the positive one; CLIP
answers Fx while its magnitude is the smaller, otherwise Fy's magnitude with the sign of Fx. The other 39 bits are
kept. AZ says Zero, AN the result's sign, AS of ABS the operand's sign. -/
def Obligations.FloatSignOperations : Prop :=
  ∀ (env : Env) (p : Pe) (rn rx ry : RegNum), fclass p.rf[rx] ≠ .nan →
    let a := p.rf[rx]
    let b := p.rf[ry]
    let signed (s : Bool) (v : DataWord) : DataWord :=
      BitVec.ofBool s ++ (if v.extractLsb' 31 8 = 0#8 then 0#39 else v.extractLsb' 0 39)
    let kept (v : DataWord) : DataWord := signed (v.getLsbD 39) v
    let one (op : FltOp1) (r : DataWord) (as : Bool) : Prop :=
      p.apply (evalCompute (.flt1 op rn rx) env p) = fltTo p rn r { resultFlags r false false with as := as }
    let two (op : FltOp2) (r : DataWord) : Prop :=
      p.apply (evalCompute (.flt2 op rn rx ry) env p) = fltTo p rn r (resultFlags r false false)
    one .neg (signed (!a.getLsbD 39) a) false ∧ one .abs (signed false a) (a.getLsbD 39) ∧ one .pass (kept a) false ∧
      (fclass b ≠ .nan →
        two .copysign (signed (b.getLsbD 39) a) ∧
        two .min
          (if floatValue a < floatValue b then kept a else if floatValue b < floatValue a then kept b
            else signed (a.getLsbD 39 || b.getLsbD 39) a) ∧
        two .max
          (if floatValue a < floatValue b then kept b else if floatValue b < floatValue a then kept a
            else signed (a.getLsbD 39 && b.getLsbD 39) a) ∧
        two .clip (if |floatValue a| < |floatValue b| then kept a else signed (a.getLsbD 39) b))

/-- R404 to R409, R401: the five additive operations on operands that are no NaN. Two Infs whose signs differ, Fy's
inverted for a subtraction, are invalid; one Inf is the result. The exact sum of two numbers, halved for the average, is
rounded once by `roundsTo`: overflow sets AV, a post-rounded denormal gives a Zero with AZ and AU. A sum of 0 is +Zero,
-Zero of two Zeros that both count as negative. ABS clears the sign of the result and AN. -/
def Obligations.FloatSums : Prop :=
  ∀ (env : Env) (p : Pe) (rn rx ry : RegNum), fclass p.rf[rx] ≠ .nan → fclass p.rf[ry] ≠ .nan →
    let a := p.rf[rx]
    let b := p.rf[ry]
    let sums (op : FltOp2) (minus half absolute : Bool) : Prop :=
      let q := p.apply (evalCompute (.flt2 op rn rx ry) env p)
      let signA := a.getLsbD 39
      let signB := b.getLsbD 39 != minus
      let inf (s : Bool) : DataWord := BitVec.ofBool s ++ 0x7F80000000#39
      let answers (r : DataWord) (av au : Bool) : Prop :=
        let r' := if absolute then 0#1 ++ r.extractLsb' 0 39 else r
        q = fltTo p rn r' (resultFlags r' av au)
      (fclass a = .inf → fclass b = .inf → signA ≠ signB →
        invalidOut p q rn false ∧ (absolute = true → anOf q.astat = false)) ∧
      (fclass a = .inf → (fclass b = .inf → signA = signB) → answers (inf signA) false false) ∧
      (fclass a ≠ .inf → fclass b = .inf → answers (inf signB) false false) ∧
      (fclass a ≠ .inf → fclass b ≠ .inf →
        let x : ℚ := (floatValue a + (if minus then -floatValue b else floatValue b)) / (if half then 2 else 1)
        (x = 0 → answers
          (BitVec.ofBool (signA && signB && decide (fclass a = .zero ∧ fclass b = .zero)) ++ 0#39) false false) ∧
        (x ≠ 0 → ∃ r av au, roundsTo env.mode1 (decide (x < 0)) |x| (if rnd32 env.mode1 then 23 else 31) r av au ∧
          answers r av au))
    sums .add false false false ∧ sums .sub true false false ∧ sums .absAdd false false true ∧
      sums .absSub true false true ∧ sums .avg false true false

/-- R418 to R422: FIX and TRUNC, with or without a scale `k`, of an operand that is no NaN. An Inf, or a Normal with
`E + k > 157`, sets AV: under ALUSAT the result saturates by its sign, otherwise it is all ones with AI. A Zero gives
0. Any other operand gives the integer the value times `2^k` is narrowed to, by FIX to the nearest or under TRUNC down,
by TRUNC toward zero; AU says `E + k < 1`. Of a magnitude narrowed to exactly 2^31 nothing is said (U16). The reading
of AU is D34. -/
def Obligations.FloatToFixed : Prop :=
  ∀ (env : Env) (p : Pe) (rn rx ry : RegNum), fclass p.rf[rx] ≠ .nan →
    let v := p.rf[rx]
    let converts (c : Compute) (k : Int) (mode : Rounding) : Prop :=
      let q := p.apply (evalCompute c env p)
      let e : Int := (v.extractLsb' 31 8).toNat + k
      let flags (az au an av : Bool) : AluFlags :=
        { az := az, au := au, an := an, av := av, ac := false, as := false, ai := false, af := true }
      (fclass v = .inf ∨ fclass v = .normal ∧ 157 < e →
        if alusat env.mode1 then
          q = fltTo p rn (if v.getLsbD 39 then 0x8000000000#40 else 0x7FFFFFFF00#40)
            (flags false false (v.getLsbD 39) true)
        else invalidOut p q rn true) ∧
      (fclass v = .zero → q = fltTo p rn 0#40 (flags true false false false)) ∧
      (fclass v = .normal → e ≤ 157 → ∃ n : Int, narrowsTo mode (floatValue v * 2 ^ k) n ∧
        (n.natAbs ≠ 2 ^ 31 →
          q = fltTo p rn (BitVec.ofInt 32 n ++ 0#8) (flags (decide (n = 0)) (decide (e < 1)) (decide (n < 0)) false)))
    let fixes : Rounding := if truncMode env.mode1 then .floor else .nearest
    converts (.flt1 .fix rn rx) 0 fixes ∧ converts (.flt2 .fixBy rn rx ry) (p.fx ry).toInt fixes ∧
      converts (.flt1 .trunc rn rx) 0 .zero ∧ converts (.flt2 .truncBy rn rx ry) (p.fx ry).toInt .zero

/-- R414, R415, R423, R424: FLOAT, with or without a scale `k`, rounds the integer times `2^k` to the 40-bit boundary
whatever RND32 is, and gives +Zero of 0. RND rounds a Normal to the 32-bit boundary with AU cleared. SCALB adds `k` to
the exponent and keeps the fraction: above 127 it overflows with AV, below -126 it gives a Zero with AZ and AU. RND and
SCALB keep an Inf and flush a denormal to the Zero of its sign. How FLOAT and RND round (`roundsTo`: a tie to even, an
overflow to Inf or to NORM.MAX) is the spec's general knowledge in R401 and its decision D32 (log entry 9). -/
def Obligations.FloatScaling : Prop :=
  ∀ (env : Env) (p : Pe) (rn rx ry : RegNum),
    let v := p.rf[rx]
    let sign := v.getLsbD 39
    let k : Int := (p.fx ry).toInt
    let two (op : FltOp2) : Pe := p.apply (evalCompute (.flt2 op rn rx ry) env p)
    let one (op : FltOp1) : Pe := p.apply (evalCompute (.flt1 op rn rx) env p)
    let plain (q : Pe) (r : DataWord) : Prop := q = fltTo p rn r (resultFlags r false false)
    let floats (q : Pe) (scale : Int) : Prop :=
      let i : Int := (p.fx rx).toInt
      (i = 0 → plain q 0#40) ∧
      (i ≠ 0 → ∃ r av au, roundsTo env.mode1 (decide (i < 0)) (|(i : ℚ)| * 2 ^ scale) 31 r av au ∧
        q = fltTo p rn r (resultFlags r av au))
    let keeps (q : Pe) : Prop :=
      (fclass v = .inf → plain q v) ∧ (fclass v = .zero → plain q (BitVec.ofBool sign ++ 0#39))
    let e : Int := ((v.extractLsb' 31 8).toNat : Int) - 127 + k
    floats (two .floatBy) k ∧ floats (one .float) 0 ∧ keeps (one .rnd) ∧ keeps (two .scalb) ∧
      (fclass v = .normal →
        (∃ r av au, roundsTo env.mode1 sign |floatValue v| 23 r av au ∧
          one .rnd = fltTo p rn r (resultFlags r av false)) ∧
        (127 < e →
          let r := overflowResult env.mode1 sign (if rnd32 env.mode1 then 23 else 31)
          two .scalb = fltTo p rn r (resultFlags r true false)) ∧
        (e < -126 →
          let r : DataWord := BitVec.ofBool sign ++ 0#39
          two .scalb = fltTo p rn r (resultFlags r false true)) ∧
        (-126 ≤ e → e ≤ 127 →
          plain (two .scalb) (BitVec.ofBool sign ++ (BitVec.ofInt 8 (e + 127) ++ v.extractLsb' 0 31))))

/-- R416, R417, R425, R426: the mantissa of a Normal as a 1.31 number, 0 of a Zero, all ones with AV of an Inf, AS the
sign; the exponent minus 127, of an Inf or a Zero saturated under ALUSAT and otherwise an Inf of the same meaning, with
AV; the seeds of 1/x and of 1/sqrt(x): the exponent computed, the fraction from a ROM table the spec leaves open (D19).
A Zero's seed is an Inf of its sign with AV; RECIPS of an exponent above 125 is a Zero; RSQRTS of a negative Normal or
Inf is invalid with AN clear, of +Inf +Zero. For operands that are no NaN; denormals count as Zero (D33). -/
def Obligations.ExponentsAndSeeds : Prop :=
  ∀ (env : Env) (p : Pe) (rn rx : RegNum),
    let v := p.rf[rx]
    let sign := v.getLsbD 39
    let e : Int := ((v.extractLsb' 31 8).toNat : Int) - 127
    let inf (s : Bool) : DataWord := BitVec.ofBool s ++ 0x7F80000000#39
    let q (op : FltOp1) : Pe := p.apply (evalCompute (.flt1 op rn rx) env p)
    let writes (op : FltOp1) (r : DataWord) (az an av as : Bool) : Prop :=
      q op = fltTo p rn r
        { az := az, au := false, an := an, av := av, ac := false, as := as, ai := false, af := true }
    (fclass v = .normal →
      writes .mant ((1#1 ++ v.extractLsb' 0 31) ++ 0#8) false false false sign ∧
      writes .logb (BitVec.ofInt 32 e ++ 0#8) (decide (e = 0)) (decide (e < 0)) false false ∧
      (125 < e → writes .recips (BitVec.ofBool sign ++ 0#39) true sign false false) ∧
      (e ≤ 125 →
        writes .recips (BitVec.ofBool sign ++ (BitVec.ofInt 8 (-e - 1 + 127) ++ Config.recipsRom (v.extractLsb' 24 7)))
          false sign false false) ∧
      (sign = false →
        writes .rsqrts
          (0#1 ++ (BitVec.ofInt 8 (-(e / 2) - 1 + 127) ++
            Config.rsqrtsRom (BitVec.ofBool (v.getLsbD 31) ++ v.extractLsb' 25 6)))
          false false false false)) ∧
    (fclass v = .zero →
      writes .mant 0#40 true false false sign ∧
      writes .logb (if alusat env.mode1 then 0x8000000000#40 else inf true) false true true false ∧
      writes .recips (inf sign) false sign true false ∧ writes .rsqrts (inf sign) false sign true false) ∧
    (fclass v = .inf →
      writes .mant 0xFFFFFFFFFF#40 false false true sign ∧
      writes .logb (if alusat env.mode1 then 0x7FFFFFFF00#40 else inf false) false false true false ∧
      writes .recips (BitVec.ofBool sign ++ 0#39) true sign false false ∧
      (sign = false → writes .rsqrts 0#40 true false false false)) ∧
    ((fclass v = .normal ∨ fclass v = .inf) → sign = true →
      invalidOut p (q .rsqrts) rn false ∧ anOf (q .rsqrts).astat = false)

/-! ### The multiplier, results (46_multiplier.md) -/

/-- R484, R401: the floating-point product. A NaN, or an Inf with a Zero, gives all ones with MI, MN whatever it is
(U15). Otherwise the sign is the exclusive or of the signs, in the result and in MN: an Inf gives an Inf, a Zero a
Zero, and two Normals their exact product rounded once to the boundary of RND32, with MV when it overflows and MU when
it is a denormal, which gives a Zero. Only the register, the multiplier flags and their sticky bits change. The
conventions are the spec's decision D38. -/
def Obligations.FloatMultiply : Prop :=
  ∀ (env : Env) (p : Pe) (rn rx ry : RegNum),
    let a := p.rf[rx]
    let b := p.rf[ry]
    let q := p.apply (evalCompute (.mulFlt rn rx ry) env p)
    let sign := a.getLsbD 39 != b.getLsbD 39
    let writes (r : DataWord) (mn mv mu mi : Bool) : Prop :=
      q = withMul { p with rf := p.rf.set rn r } { mn := mn, mv := mv, mu := mu, mi := mi, floating := true }
    let is (u v : FloatClass) : Prop := fclass a = u ∧ fclass b = v
    ((fclass a = .nan ∨ fclass b = .nan ∨ is .inf .zero ∨ is .zero .inf) →
      ∃ mn, writes 0xFFFFFFFFFF#40 mn false false true) ∧
    ((is .inf .inf ∨ is .inf .normal ∨ is .normal .inf) →
      writes (BitVec.ofBool sign ++ 0x7F80000000#39) sign false false false) ∧
    ((is .zero .zero ∨ is .zero .normal ∨ is .normal .zero) →
      writes (BitVec.ofBool sign ++ 0#39) sign false false false) ∧
    (is .normal .normal → ∃ r mv mu,
      roundsTo env.mode1 sign (|floatValue a| * |floatValue b|) (if rnd32 env.mode1 then 23 else 31) r mv mu ∧
        writes r sign mv mu false)

/-- R454: the flags of a fixed-point result as statements about numbers: MN its sign, MV that it does not fit the 32 bits
(integer) or the 64 bits (fractional) of its signedness, MU that a fractional result is not zero and below the unit of
bit 32. They set the sticky bits MOS with MV and MUS with MU and no other: the spec's general knowledge in R54 and R450
(log entry 19). -/
def Obligations.MultiplierFlags : Prop :=
  ∀ (r : ResultWord) (frac signed : Bool),
    (mulFlags r frac signed).mn = decide (r.toInt < 0) ∧
    ((mulFlags r frac signed).mv = true ↔
      if signed then r.toInt < -(2 ^ (if frac then 63 else 31)) ∨ (2 ^ (if frac then 63 else 31) : Int) ≤ r.toInt
      else 2 ^ (if frac then 64 else 32) ≤ r.toNat) ∧
    ((mulFlags r frac signed).mu = true ↔
      frac = true ∧
        if signed then -(2 ^ 32) < r.toInt ∧ r.toInt < 2 ^ 32 ∧ r.toInt ≠ 0 else 0 < r.toNat ∧ r.toNat < 2 ^ 32) ∧
    (mulFlags r frac signed).mi = false ∧
    ∀ k, (mulFlags r frac signed).sticky.getLsbD k =
      (k == 6 && (mulFlags r frac signed).mv || k == 8 && (mulFlags r frac signed).mu)

/-- R452 to R466: multiply, multiply and accumulate, and multiply and subtract answer a next state in which the register or
the MR register holds the exact product of the two inputs, read as signed or unsigned, added to or subtracted from the MR
register, modulo 2^80; a product of two signed fractions is doubled. With rounding it is the multiple of 2^32 nearest to
that, an even multiple on a tie. A register takes bits 63 to 32 of a fraction, bits 31 to 0 of an integer. The flags are
those of the 80-bit result `r`, signed when either input is: MN its sign, MV that it is no number of the format, MU that a
fraction is below the unit of bit 32 and not 0. -/
def Obligations.MultiplyAccumulate : Prop :=
  ∃ rounded : ResultWord → ResultWord,
    (∀ v : ResultWord, ∃ q : Int,
      rounded v = BitVec.ofInt 80 (q * 2 ^ 32) ∧
        2 * (v.toInt - q * 2 ^ 32) ≤ 2 ^ 32 ∧ -(2 ^ 32) ≤ 2 * (v.toInt - q * 2 ^ 32) ∧
        ((2 * (v.toInt - q * 2 ^ 32) = 2 ^ 32 ∨ 2 * (v.toInt - q * 2 ^ 32) = -(2 ^ 32)) → q % 2 = 0)) ∧
    ∀ (s : State) (m : Mod2) (rn rx ry : RegNum),
      let fraction : Bool := decide (m.format ≠ .integer)
      let signed : Bool := m.xSigned || m.ySigned
      let input (isSigned : Bool) (v : Word) : Int := if isSigned then v.toInt else v.toNat
      let product (p : Pe) : Int :=
        (if fraction && m.xSigned && m.ySigned then 2 else 1) * (input m.xSigned (p.fx rx) * input m.ySigned (p.fx ry))
      let result (v : Int) : ResultWord :=
        if m.format = .rounded then rounded (BitVec.ofInt 80 v) else BitVec.ofInt 80 v
      let bound : Nat := if fraction then 2 ^ 63 else 2 ^ 31
      let flags (r : ResultWord) : MulFlags :=
        { mn := decide (r.toInt < 0)
          mv := if signed then decide (r.toInt < -(bound : Int) ∨ (bound : Int) ≤ r.toInt) else decide (2 * bound ≤ r.toNat)
          mu := fraction &&
            if signed then decide (-(2 ^ 32) < r.toInt ∧ r.toInt < 2 ^ 32 ∧ r.toInt ≠ 0)
            else decide (0 < r.toNat ∧ r.toNat < 2 ^ 32)
          mi := false
          floating := false }
      let toReg (p : Pe) (v : Int) : Pe :=
        let r := result v
        withMul { p with rf := p.rf.set rn ((if fraction then r.extractLsb' 32 32 else r.extractLsb' 0 32) ++ 0#8) }
          (flags r)
      let toF (p : Pe) (v : Int) : Pe := withMul { p with mrf := result v } (flags (result v))
      let toB (p : Pe) (v : Int) : Pe := withMul { p with mrb := result v } (flags (result v))
      let does (i : Instr) (f : Pe → Pe) : Prop := exec i s = .next (onElements s f)
      does (.mulRn m rn rx ry) (fun p => toReg p (product p)) ∧
      does (.mulMrf m rx ry) (fun p => toF p (product p)) ∧
      does (.mulMrb m rx ry) (fun p => toB p (product p)) ∧
      does (.macRnMrf m rn rx ry) (fun p => toReg p (p.mrf.toInt + product p)) ∧
      does (.macRnMrb m rn rx ry) (fun p => toReg p (p.mrb.toInt + product p)) ∧
      does (.macMrf m rx ry) (fun p => toF p (p.mrf.toInt + product p)) ∧
      does (.macMrb m rx ry) (fun p => toB p (p.mrb.toInt + product p)) ∧
      does (.msuRnMrf m rn rx ry) (fun p => toReg p (p.mrf.toInt - product p)) ∧
      does (.msuRnMrb m rn rx ry) (fun p => toReg p (p.mrb.toInt - product p)) ∧
      does (.msuMrf m rx ry) (fun p => toF p (p.mrf.toInt - product p)) ∧
      does (.msuMrb m rx ry) (fun p => toB p (p.mrb.toInt - product p))

/-- R453, R470 to R483: the operations on an MR value, into a data register or in place. SAT holds the value between the
least and the greatest number of the format, signed or unsigned, with MV and MI clear. RND leaves the multiple of 2^32
nearest to the value, an even multiple on a tie, modulo 2^80, and keeps MI. A clear leaves 0 and every flag. A transfer
writes or reads one part of 32 bits, MR2 by its low 16 bits and sign-extended, and clears the four flags. The flags of
SAT and RND are those of MultiplierFlags. -/
def Obligations.MrOperations : Prop :=
  ∃ rounded : ResultWord → ResultWord,
    (∀ v : ResultWord, ∃ q : Int,
      rounded v = BitVec.ofInt 80 (q * 2 ^ 32) ∧
        2 * (v.toInt - q * 2 ^ 32) ≤ 2 ^ 32 ∧ -(2 ^ 32) ≤ 2 * (v.toInt - q * 2 ^ 32) ∧
        ((2 * (v.toInt - q * 2 ^ 32) = 2 ^ 32 ∨ 2 * (v.toInt - q * 2 ^ 32) = -(2 ^ 32)) → q % 2 = 0)) ∧
    ∀ (s : State) (n : Mod1) (sg : Bool) (rn : RegNum),
      let saturated (v : ResultWord) : ResultWord :=
        if n.signed then
          BitVec.ofInt 80
            (max (-(2 ^ (if n.fractional then 63 else 31))) (min v.toInt (2 ^ (if n.fractional then 63 else 31) - 1)))
        else BitVec.ofNat 80 (min v.toNat (2 ^ (if n.fractional then 64 else 32) - 1))
      let satFlags (v : ResultWord) : MulFlags := { mulFlags (saturated v) n.fractional n.signed with mv := false }
      let rndFlags (p : Pe) (v : ResultWord) : MulFlags :=
        { mulFlags (rounded v) true sg with mi := p.astat.getLsbD 9 }
      let reg (p : Pe) (v : Word) (fl : MulFlags) : Pe := withMul { p with rf := p.rf.set rn (v ++ 0#8) } fl
      let part (v : ResultWord) : Word := if n.fractional then v.extractLsb' 32 32 else v.extractLsb' 0 32
      let f (p : Pe) (v : ResultWord) (fl : MulFlags) : Pe := withMul { p with mrf := v } fl
      let b (p : Pe) (v : ResultWord) (fl : MulFlags) : Pe := withMul { p with mrb := v } fl
      let no : MulFlags := { mn := false, mv := false, mu := false, mi := false, floating := false }
      let low (v : ResultWord) (w : Word) : ResultWord := v.extractLsb' 32 48 ++ w
      let middle (v : ResultWord) (w : Word) : ResultWord := v.extractLsb' 64 16 ++ (w ++ v.extractLsb' 0 32)
      let high (v : ResultWord) (w : Word) : ResultWord := w.extractLsb' 0 16 ++ v.extractLsb' 0 64
      let does (i : Instr) (g : Pe → Pe) : Prop := exec i s = .next (onElements s g)
      does (.satRnMrf n rn) (fun p => reg p (part (saturated p.mrf)) (satFlags p.mrf)) ∧
      does (.satRnMrb n rn) (fun p => reg p (part (saturated p.mrb)) (satFlags p.mrb)) ∧
      does (.satMrf n) (fun p => f p (saturated p.mrf) (satFlags p.mrf)) ∧
      does (.satMrb n) (fun p => b p (saturated p.mrb) (satFlags p.mrb)) ∧
      does (.rndRnMrf sg rn) (fun p => reg p ((rounded p.mrf).extractLsb' 32 32) (rndFlags p p.mrf)) ∧
      does (.rndRnMrb sg rn) (fun p => reg p ((rounded p.mrb).extractLsb' 32 32) (rndFlags p p.mrb)) ∧
      does (.rndMrf sg) (fun p => f p (rounded p.mrf) (rndFlags p p.mrf)) ∧
      does (.rndMrb sg) (fun p => b p (rounded p.mrb) (rndFlags p p.mrb)) ∧
      does .clrMrf (fun p => { p with mrf := 0#80 }) ∧ does .clrMrb (fun p => { p with mrb := 0#80 }) ∧
      does (.putMr0f rn) (fun p => f p (low p.mrf (p.fx rn)) no) ∧
      does (.putMr1f rn) (fun p => f p (middle p.mrf (p.fx rn)) no) ∧
      does (.putMr2f rn) (fun p => f p (high p.mrf (p.fx rn)) no) ∧
      does (.putMr0b rn) (fun p => b p (low p.mrb (p.fx rn)) no) ∧
      does (.putMr1b rn) (fun p => b p (middle p.mrb (p.fx rn)) no) ∧
      does (.putMr2b rn) (fun p => b p (high p.mrb (p.fx rn)) no) ∧
      does (.getMr0f rn) (fun p => reg p (p.mrf.extractLsb' 0 32) no) ∧
      does (.getMr1f rn) (fun p => reg p (p.mrf.extractLsb' 32 32) no) ∧
      does (.getMr2f rn) (fun p => reg p ((p.mrf.extractLsb' 64 16).signExtend 32) no) ∧
      does (.getMr0b rn) (fun p => reg p (p.mrb.extractLsb' 0 32) no) ∧
      does (.getMr1b rn) (fun p => reg p (p.mrb.extractLsb' 32 32) no) ∧
      does (.getMr2b rn) (fun p => reg p ((p.mrb.extractLsb' 64 16).signExtend 32) no)

/-! ### The shifter, results -/

/-- R492 to R496: shifts and rotate by any 32-bit count of Ry or by the 8-bit immediate, as numbers: a logical shift
multiplies or divides the unsigned field, an arithmetic right shift divides the signed field toward minus infinity, bit
`i` of a rotation is bit `i - k` modulo 32; the OR forms write the old field of Rn or the shifted value. SZ says zero,
SV a left shift by more than 0, and never for a rotation; SZ of an OR form is not said when the shifted value is zero
and the written one is not (U17). -/
def Obligations.ShiftsAndRotate : Prop :=
  ∀ (s : State) (rn rx ry : RegNum) (data : BitVec 8),
    let answers (reg : Instr) (op : ShiftOp) (out : Pe → Int → Word) (sv : Int → Bool) : Prop :=
      let shifted (p : Pe) (k : Int) : Pe :=
        shiftTo p rn (out p k) { sz := decide (out p k = 0#32), sv := sv k, ss := false }
      exec reg s = .next (onElements s fun p => shifted p (p.fx ry).toInt) ∧
        exec (.shiftImm .always (.shift op data rn rx)) s = .next (onElements s fun p => shifted p data.toInt)
    let ored (reg : Instr) (op : ShiftOp) (out : Pe → Int → Word) : Prop :=
      ∃ sz : Element → Pe → Int → Bool,
        (∀ e p k, (out p k = 0#32 → p.fx rn = 0#32) → sz e p k = decide (p.fx rn ||| out p k = 0#32)) ∧
        let shifted (e : Element) (p : Pe) (k : Int) : Pe :=
          shiftTo p rn (p.fx rn ||| out p k) { sz := sz e p k, sv := decide (0 < k), ss := false }
        exec reg s = .next (onEach s fun e p => shifted e p (p.fx ry).toInt) ∧
          exec (.shiftImm .always (.shift op data rn rx)) s = .next (onEach s fun e p => shifted e p data.toInt)
    let logical (p : Pe) (k : Int) : Word :=
      if 0 ≤ k then BitVec.ofNat 32 ((p.fx rx).toNat * 2 ^ k.toNat)
      else BitVec.ofNat 32 ((p.fx rx).toNat / 2 ^ (-k).toNat)
    let arithmetic (p : Pe) (k : Int) : Word :=
      if 0 ≤ k then BitVec.ofInt 32 ((p.fx rx).toInt * 2 ^ k.toNat)
      else BitVec.ofInt 32 ((p.fx rx).toInt / 2 ^ (-k).toNat)
    answers (.lshift rn rx ry) .lshift logical (fun k => decide (0 < k)) ∧
    answers (.ashift rn rx ry) .ashift arithmetic (fun k => decide (0 < k)) ∧
    ored (.orLshift rn rx ry) .orLshift logical ∧ ored (.orAshift rn rx ry) .orAshift arithmetic ∧
    ∃ out : Pe → Int → Word,
      (∀ (p : Pe) (k : Int) (i : Nat), i < 32 →
        (out p k).getLsbD i = (p.fx rx).getLsbD (((i : Int) - k) % 32).toNat) ∧
      answers (.rot rn rx ry) .rot out (fun _ => false)

/-- R497 to R499, R510, R511: clear, set and toggle a bit at the position in Ry or in the 8-bit immediate: a position
outside 0 to 31 changes no bit; SV says a position above 31. LEFTZ and LEFTO write the `n` for which exactly the top `n`
bits are 0 or 1, with SZ for 0 and SV for 32. -/
def Obligations.BitOperations : Prop :=
  ∀ (s : State) (rn rx ry : RegNum) (data : BitVec 8),
    let answers (reg : Instr) (op : ShiftOp) (bit : Bool → Bool → Bool) : Prop :=
      ∃ out : Pe → Int → Word,
        (∀ (p : Pe) (k : Int) (i : Nat), i < 32 →
          (out p k).getLsbD i = bit ((p.fx rx).getLsbD i) (decide ((i : Int) = k))) ∧
        let changed (p : Pe) (k : Int) : Pe :=
          shiftTo p rn (out p k) { sz := decide (out p k = 0#32), sv := decide (31 < k), ss := false }
        exec reg s = .next (onElements s fun p => changed p (p.fx ry).toInt) ∧
          exec (.shiftImm .always (.shift op data rn rx)) s = .next (onElements s fun p => changed p data.toInt)
    let counts (reg : Instr) (bit : Bool) : Prop :=
      ∃ n : Pe → Nat,
        (∀ p, n p ≤ 32 ∧ (∀ i, i < n p → (p.fx rx).getLsbD (31 - i) = bit) ∧
          (n p < 32 → (p.fx rx).getLsbD (31 - n p) = !bit)) ∧
        exec reg s = .next (onElements s fun p =>
          shiftTo p rn (BitVec.ofNat 32 (n p)) { sz := decide (n p = 0), sv := decide (n p = 32), ss := false })
    answers (.bclr rn rx ry) .bclr (fun old here => old && !here) ∧
    answers (.bset rn rx ry) .bset (fun old here => old || here) ∧
    answers (.btgl rn rx ry) .btgl (fun old here => old ^^ here) ∧
    counts (.leftz rn rx) false ∧ counts (.lefto rn rx) true

/-- R501 to R507: field deposit and extract, bit by bit, with `lo` the bit6 and `len` the len6 field of Ry or of the
immediate: the field's bits at their places, above them zero or, with (SE), its most significant bit unless that is
off-scale left; the OR forms keep the bits Rn had; SZ says zero, SV a field that reaches beyond bit 31. -/
def Obligations.FieldOperations : Prop :=
  ∀ (s : State) (rn rx ry : RegNum) (bit6 len6 : BitVec 6),
    let deposited (p : Pe) (lo len i : Nat) : Prop := lo ≤ i ∧ i < lo + len ∧ (p.fx rx).getLsbD (i - lo) = true
    let extracted (p : Pe) (lo len i : Nat) : Prop := i < len ∧ (p.fx rx).getLsbD (i + lo) = true
    let signed (lo len : Nat) : Prop := 1 ≤ len ∧ lo + len ≤ 32
    let above (p : Pe) (lo len i : Nat) : Prop :=
      signed lo len ∧ lo + len ≤ i ∧ (p.fx rx).getLsbD (len - 1) = true
    let aboveExt (p : Pe) (lo len i : Nat) : Prop :=
      signed lo len ∧ len ≤ i ∧ (p.fx rx).getLsbD (lo + len - 1) = true
    let old (p : Pe) (i : Nat) : Prop := (p.fx rn).getLsbD i = true
    let answers (reg : Instr) (op : FieldOp) (bits : Pe → Nat → Nat → Nat → Prop) : Prop :=
      ∃ out : Pe → Nat → Nat → Word,
        (∀ (p : Pe) (lo len k : Nat), k < 32 → ((out p lo len).getLsbD k = true ↔ bits p lo len k)) ∧
        let written (p : Pe) (lo len : Nat) : Pe :=
          shiftTo p rn (out p lo len)
            { sz := decide (out p lo len = 0#32), sv := decide (32 < lo + len), ss := false }
        exec reg s = .next (onElements s fun p =>
          written p ((p.fx ry).extractLsb' 0 6).toNat ((p.fx ry).extractLsb' 6 6).toNat) ∧
        exec (.shiftImm .always (.field op bit6 len6 rn rx)) s =
          .next (onElements s fun p => written p bit6.toNat len6.toNat)
    answers (.fdep rn rx ry) .fdep deposited ∧
    answers (.orFdep rn rx ry) .orFdep (fun p lo len i => old p i ∨ deposited p lo len i) ∧
    answers (.fdepSe rn rx ry) .fdepSe (fun p lo len i => deposited p lo len i ∨ above p lo len i) ∧
    answers (.orFdepSe rn rx ry) .orFdepSe
      (fun p lo len i => old p i ∨ deposited p lo len i ∨ above p lo len i) ∧
    answers (.fext rn rx ry) .fext extracted ∧
    answers (.fextSe rn rx ry) .fextSe (fun p lo len i => extracted p lo len i ∨ aboveExt p lo len i)

/-- R500, R508, R509, R512, R513: BTST, with the position in Ry or in the 8-bit immediate, clears SZ exactly for a 1 bit
at a position 0 to 31 and writes no register. EXP writes `1 - n` for the `n` leading bits equal to the sign, with SS the
sign; EXP (EX) writes 1 instead when AV is set, with SS the sign unless AV inverts it. FPACK writes the sign and a 15-bit
number: half a unit added to the value in its format and the fraction dropped, at most the largest, SV saying that it
was larger; its low bit may be anything when the value lay halfway (U18). FUNPACK gives the 16-bit number exactly: the
exponent plus 120 and the fraction with zeros below, a denormal normalized, a Zero of the sign for 0; SZ, SV and SS are
cleared and the upper 16 bits of the source do not matter. Packing that gives the 16 bits back. SZ for a negative
position and the 32 bits of the exponent are D39, the rounding of FPACK and the unpacking of zero D40. -/
def Obligations.TestsExponentsAndPacking : Prop :=
  (∀ (s : State) (rn rx ry : RegNum) (data : BitVec 8),
    (∃ z : Pe → Int → Bool,
      (∀ p k, z p k = false ↔ ∃ i : Nat, i < 32 ∧ (i : Int) = k ∧ (p.fx rx).getLsbD i = true) ∧
      let tested (p : Pe) (k : Int) : Pe :=
        { p with astat := ShiftFlags.into { sz := z p k, sv := decide (31 < k), ss := false } p.astat }
      exec (.btst rx ry) s = .next (onElements s fun p => tested p (p.fx ry).toInt) ∧
      exec (.shiftImm .always (.btst data rx)) s = .next (onElements s fun p => tested p data.toInt)) ∧
    (∃ n : Pe → Nat,
      (∀ p, n p ≤ 32 ∧ (∀ i, i < n p → (p.fx rx).getLsbD (31 - i) = (p.fx rx).getLsbD 31) ∧
        (n p < 32 → (p.fx rx).getLsbD (31 - n p) = !(p.fx rx).getLsbD 31)) ∧
      exec (.exp rn rx) s = .next (onElements s fun p =>
        shiftTo p rn (BitVec.ofInt 32 (1 - (n p : Int)))
          { sz := decide (n p = 1), sv := false, ss := (p.fx rx).getLsbD 31 }) ∧
      exec (.expEx rn rx) s = .next (onElements s fun p =>
        let e : Int := if avOf p.astat then 1 else 1 - (n p : Int)
        shiftTo p rn (BitVec.ofInt 32 e)
          { sz := decide (e = 0), sv := false, ss := avOf p.astat != (p.fx rx).getLsbD 31 })) ∧
    (∃ bits : Element → Pe → BitVec 15,
      let exact (p : Pe) : ℚ :=
        let e : Nat := (p.rf[rx].extractLsb' 31 8).toNat
        let f : Nat := (p.rf[rx].extractLsb' 8 23).toNat
        if 135 < e then 2 ^ 15
        else if 120 < e then ((e : ℚ) - 120) * 2 ^ 11 + (f : ℚ) / 2 ^ 12
        else if 109 < e then (2 ^ 23 + (f : ℚ)) / 2 ^ (133 - e)
        else 0
      let near (p : Pe) : Nat := ⌊exact p + 1 / 2⌋₊
      (∀ el p,
        ((near p : ℚ) ≠ exact p + 1 / 2 → (bits el p).toNat = min (near p) 0x7FFF) ∧
        ((near p : ℚ) = exact p + 1 / 2 → (bits el p).toNat / 2 = min (near p) 0x7FFF / 2)) ∧
      exec (.fpack rn rx) s = .next (onEach s fun el p =>
        shiftTo p rn (0#16 ++ (BitVec.ofBool (p.rf[rx].getLsbD 39) ++ bits el p))
          { sz := false, sv := decide (0x7FFF < near p), ss := false })) ∧
    ∃ out : BitVec 16 → Word,
      (∀ h : BitVec 16,
        let sign := h.extractLsb' 15 1
        let pe := (h.extractLsb' 11 4).toNat
        let pf := h.extractLsb' 0 11
        (0 < pe → out h = sign ++ (BitVec.ofNat 8 (pe + 120) ++ (pf ++ 0#12))) ∧
        (pe = 0 → pf = 0#11 → out h = sign ++ 0#31) ∧
        (pe = 0 → ∀ n, n < 11 → 2 ^ (10 - n) ≤ pf.toNat → pf.toNat < 2 ^ (11 - n) →
          out h = sign ++ (BitVec.ofNat 8 (120 - n) ++ BitVec.ofNat 23 ((pf.toNat - 2 ^ (10 - n)) * 2 ^ (13 + n))))) ∧
      exec (.funpack rn rx) s = .next (onElements s fun p =>
        shiftTo p rn (out ((p.fx rx).extractLsb' 0 16)) { sz := false, sv := false, ss := false })) ∧
  ∀ (env : Env) (h : BitVec 16),
    fpackOp env (toFx (unpackValue (0#16 ++ h))) = ⟨0#16 ++ h, { sz := false, sv := false, ss := false }⟩

/-! ### Encoding (30_encoding.md) -/

/-- R144 to R177: decoding the word the encoder writes for a well-formed instruction gives back that instruction, with
every operand at every value. -/
def Obligations.DecodeEncode : Prop :=
  ∀ i : Instr, WellFormed i = true → decode (encode i) = .ok i

/-- R175, R338: bits 47 to 24 of a Type 25 word are all fixed, and of RFRAME bits 23 to 0 too: 0x180400 and 0x184400 are
the two forms of CJUMP, 0x190000 with zeros below is RFRAME, and every other word with bits 47 to 40 equal to 0x18 or
0x19 is refused. A Type 20 word with a push bit and a pop bit both set is refused, every other one is decoded. -/
def Obligations.ReservedWords : Prop :=
  ∀ w : InstrWord,
    let push := w.getLsbD 39 || w.getLsbD 37 || w.getLsbD 35
    let pop := w.getLsbD 38 || w.getLsbD 36 || w.getLsbD 34
    (w.extractLsb' 40 8 = 0x18#8 →
      decode w =
        if w.extractLsb' 24 24 = 0x180400#24 then .ok (.cjumpAbs (w.extractLsb' 0 24))
        else if w.extractLsb' 24 24 = 0x184400#24 then .ok (.cjumpRel (w.extractLsb' 0 24))
        else .error .reservedType25) ∧
    (w.extractLsb' 40 8 = 0x19#8 →
      decode w = if w = 0x190000000000#48 then .ok .rframe else .error .reservedType25) ∧
    (w.extractLsb' 40 8 = 0x17#8 →
      ((push && pop) = true → decode w = .error .pushWithPop) ∧ ((push && pop) = false → ∃ i, decode w = .ok i))

/-- Words of the spec's examples and the instructions it gives for them: R267 `JUMP 0x041000`, R268
`CALL 0x041000 (DB)`, R277 `IF LE RTS (DB)`, R280 `LCNTR=100, DO (PC,5) UNTIL LCE`, R281 `LCNTR=R12, DO (PC,16) UNTIL
LCE`, R283 `DO (PC,7) UNTIL AC`, R227 `R0 <-> S1`, R278 `RTI, R6=R5 XOR R1`. -/
def Obligations.ExampleWords : Prop :=
  decode 0x063E00041000#48 = .ok (.jumpAbs .always ⟨false, false, false⟩ 0x041000#24) ∧
  decode 0x06BE04041000#48 = .ok (.callAbs .always true 0x041000#24) ∧
  decode 0x0A0404000000#48 = .ok (.rts .le true false false .nop) ∧
  decode 0x0C0064000005#48 = .ok (.doCountImm 100#16 5#24) ∧
  decode 0x0D0C00000010#48 = .ok (.doCountReg (.r 12) 16#24) ∧
  decode 0x0E0600000007#48 = .ok (.doUntil .ac 7#24) ∧
  decode 0x787E00000000#48 = .ok (.swap .always .nop 0 1) ∧
  decode 0x0B3E00042651#48 = .ok (.rti .always false false (.fix2 .xor 6 5 1))

/-! ### Steps (41_program_flow.md R260, R261, R282) -/

/-- R260, R127: when the processor is not idle and the 48-bit word at PC, not stored to since the last FLUSH CACHE,
decodes to `i`, and nothing forbids `i` there, the step is `exec i`: a next state goes on to the choice of the next PC
and to the sampling of interrupts (`finish`), a fault or a refusal is the step's. What the guard forbids is refused. -/
def Obligations.StepRunsDecoded : Prop :=
  ∀ (s : State) (i : Instr), s.idle = false → fetchAddr s ∉ s.stale → s.region (fetchAddr s) = .word48 →
    decode (to48 (s.mem.readCell (fetchAddr s) 6)) = .ok i →
    (∀ why, guard s i = some why → step s = .refused why) ∧
    (guard s i = none →
      (∀ t, exec i s = .next t → step s = Run.outcome (finish s t)) ∧
      (∀ f, exec i s = .fault f → step s = .fault f) ∧
      ∀ why, exec i s = .refused why → step s = .refused why)

/-- R260, R261, R265, R277 with DB_SLOTS = 2: a delayed jump, with or without (LA), or a delayed return at `a` and two NOPs
at `a + 1` and `a + 2`, where no loop ends: the first two steps go to `a + 1` and `a + 2`, no interrupt being taken
between the branch and its target, and the third goes to the target, unless it takes an interrupt there, with the target
as the return address. A return pops its address in the first step; (LA) pops the innermost loop and the PC stack with
the transfer, in the third. -/
def Obligations.DelayedBranchTakesTwoSlots : Prop :=
  ∀ (s : State) (t : ProgAddr),
    s.idle = false → s.dbr = none → s.request = none → s.mode1Changed = 0#32 →
    (∀ e ∈ s.loops, e.endAddr ≠ s.pc + 1#24 ∧ e.endAddr ≠ s.pc + 2#24) →
    (∀ k, k < 3 → s.region ((s.pc + BitVec.ofNat 24 k).setWidth 32) = .word48 ∧
      (s.pc + BitVec.ofNat 24 k).setWidth 32 ∉ s.stale) →
    to48 (s.mem.readCell ((s.pc + 1#24).setWidth 32) 6) = encode .nop →
    to48 (s.mem.readCell ((s.pc + 2#24).setWidth 32) 6) = encode .nop →
    let goes (i : Instr) (during after : List PcEntry) (loops : List LoopEntry) : Prop :=
      to48 (s.mem.readCell (s.pc.setWidth 32) 6) = encode i →
      ∃ u v, step s = .next u ∧ u.pc = s.pc + 1#24 ∧ u.pcStack = during ∧ u.loops = s.loops ∧
        step u = .next v ∧ v.pc = s.pc + 2#24 ∧ v.pcStack = during ∧ v.loops = s.loops ∧
        ∀ w, step v = .next w →
          w.dbr = none ∧ w.loops = loops ∧
            ((w.pc = t ∧ w.pcStack = after) ∨ ∃ k, w.pc = vectorOf w k ∧ w.pcStack = ⟨t, .call⟩ :: after)
    goes (.jumpAbs .always ⟨true, false, false⟩ t) s.pcStack s.pcStack s.loops ∧
    (∀ e more a rest, s.loops = e :: more → s.pcStack = a :: rest →
      goes (.jumpAbs .always ⟨true, true, false⟩ t) s.pcStack rest more) ∧
    ∀ src rest lr, s.pcStack = ⟨t, src⟩ :: rest → goes (.rts .always true false lr .nop) rest rest s.loops

/-- R282: a counter loop whose CURLCNTR is `n` runs its body `n` times, 2^32 times for 0: its end address is passed `n -
1` times back to the loop's start, and the next time control falls through and the entries of the loop are popped.
`pass` is what the sequencer does after the instruction at the end address. The loop is one a set-up can make: no other
active loop ends there, and not all addresses that can be its first body address lie beyond its end (`firstBodies`: U22,
log entry 29). -/
def Obligations.CounterLoopCounts : Prop :=
  ∀ (s : State) (e : LoopEntry) (rest : List LoopEntry) (top : PcEntry) (more : List PcEntry),
    s.loops = e :: rest → s.pcStack = top :: more → e.term = .lce → s.request = none → s.dbr = none →
    (∀ f ∈ rest, f.endAddr ≠ e.endAddr) →
    (firstBodies s e rest = [] ∨ ∃ b ∈ firstBodies s e rest, 0 ≤ (e.endAddr - b).toInt) →
    let pass (r : Run State) : Run State := r >>= fun t => Machine.sequence { t with pc := e.endAddr }
    let back := (e.count - 1#32).toNat
    (∀ k, 1 ≤ k → k ≤ back →
      pass^[k] (.ok s) =
        .ok { s with
          pc := top.addr
          straight := false
          loops := { e with count := e.count - BitVec.ofNat 32 k } :: rest }) ∧
    pass^[back + 1] (.ok s) =
      .ok { s with pc := e.endAddr + 1#24, straight := true, loops := rest, pcStack := more }

/-- R282, R283: the end of a condition loop whose condition has been settled over its last three instructions: it is
tested when the instruction at the end address is done (the spec's decision D43, log entry 29), on PEx, in SIMD mode on
both elements; true leaves the loop and pops its entries (the spec's general knowledge in R282), false goes back to its
start; FOREVER always goes back; right after a change of a MODE1 bit that the test reads, PEYEN or for a comparison
ALUSAT, the test is refused (R612, U26, log entry 31); a condition that changed is refused, and so is the end of any
loop that another active loop ends at too or that lies below the loop's first body address (U22). Which address that is,
when software changed the stacks, the spec leaves open: the model refuses an end that is below all that can be it
(`firstBodies`, log entry 29). A start that DO pushed, still on top, is the only one; once it was popped the first address
after the DO can be it, so an end that no software moved below it is not refused; return addresses are none; the one
PUSH PCSTK pushed on top can be it when the loop's DO pushed none that is left and the other loops have theirs; where
the top, not a return address, is at or before the end, nothing is refused for it. Any other end goes back to the
address on top of the PC stack, as R282 says, a later return address too (R602). -/
def Obligations.ConditionLoopEnds : Prop :=
  ∀ (s : State) (e : LoopEntry) (rest : List LoopEntry) (top : PcEntry) (more : List PcEntry),
    s.loops = e :: rest → s.pcStack = top :: more → e.endAddr = s.pc → s.request = none → s.dbr = none →
    let starts := firstBodies s e rest
    let misplaced := (∃ f ∈ rest, f.endAddr = e.endAddr) ∨
      (starts ≠ [] ∧ ∀ b ∈ starts, (e.endAddr - b).toInt < 0)
    let ordered : List Cond := [.lt, .le, .ge, .gt]
    let ofElement : List Cond := ordered ++ [.eq, .ac, .av, .mv, .ms, .sv, .sz, .tf, .ne, .notAc, .notAv, .notMv, .notMs,
      .notSv, .notSz, .notTf]
    let changedMode : Prop := (s.mode1Changed.getLsbD 13 = true ∧ e.term ∈ ordered) ∨
      (s.mode1Changed.getLsbD 21 = true ∧ e.term ∈ ofElement)
    let holds := condHolds e.term s.view false .x && (!s.simd || condHolds e.term s.view false .y)
    let back : State := { s with pc := top.addr, straight := false }
    let out : State := { s with pc := s.pc + 1#24, straight := true, loops := rest, pcStack := more }
    (top.isStartOf e = true → starts = [top.addr]) ∧
    (∀ d, e.made = some d → hasStart s.pcStack e = false → d.first ∈ starts) ∧
    ((∀ p ∈ s.pcStack, p.source = .call) →
      (e.made = none → starts = []) ∧ ∀ d, e.made = some d → starts = [d.first]) ∧
    (hasStart s.pcStack e = false → top.source = .software → (∀ f ∈ rest, hasStart s.pcStack f = true) →
      top.addr ∈ starts) ∧
    (starts ≠ [] → top.source ≠ .call → top.addr ∈ starts) ∧
    (misplaced → Machine.sequence s = refuse .loopEnd) ∧
    (¬ misplaced → e.term = .always → Machine.sequence s = .ok back) ∧
    (¬ misplaced → changedMode → e.term ≠ .always → e.term ≠ .lce → Machine.sequence s = refuse .modeJustChanged) ∧
    (¬ misplaced → ¬ changedMode → e.term ≠ .always → e.term ≠ .lce →
      ((∀ v ∈ s.history, termHolds e.term v = holds) → Machine.sequence s = .ok (if holds then out else back)) ∧
      ((∃ v ∈ s.history, termHolds e.term v ≠ holds) → Machine.sequence s = refuse .loopEnd))

/-! ### What a step refuses (41_program_flow.md R261, R282; 70_reset_and_hazards.md R612) -/

/-- What a step refuses of the instruction `i` at PC, and what it lets pass. U21: between a delayed branch and its
target no allowed instruction that goes on asks for a branch, changes the PC stack or a loop stack or enters the idle
state, and none stands at the end of an active loop. U22: in the last three places of an active counter loop NOT LCE,
and a move, loop set-up or immediate load that reads or writes LADDR or CURLCNTR where it runs, are refused; so is a
write of LADDR that puts the end of a counter loop there. U26: right after a change of MODE1 (`mode1Changed`) an
instruction is refused that depends on a changed bit. PEYEN: any compute, any move of a register with a complement but
the swap, which is the same in both modes (D20), the conditions of an element. ALUSAT, TRUNC, RND32: the computations
that read them, alone or in a multifunction, whatever carries them, and for ALUSAT LT, LE, GE and GT. CBUFEN:
post-modifies with a buffer length. BDCST1 and BDCST9: loads by I1 and I9. A Type 2 word whose COMPUTE is all zeros does
nothing (R223) and depends on nothing. With no branch pending and away from the ends of counter loops, nothing is
refused when none of the seven bits changed, and NOP and that word never are; in a slot where no loop ends NOP is not
refused. That these cases are refused is the spec's U21, U22 and U26 (log entries 28, 29, 31). -/
def Obligations.GuardForbids : Prop :=
  ∀ (s : State) (i : Instr),
    let near (e : LoopEntry) : Prop :=
      e.term = .lce ∧ (s.pc = e.endAddr ∨ s.pc + 1#24 = e.endAddr ∨ s.pc + 2#24 = e.endAddr)
    let changed (k : Nat) : Prop := s.mode1Changed.getLsbD k = true
    let ordered : List Cond := [.lt, .le, .ge, .gt]
    let ofElement : List Cond := ordered ++ [.eq, .ac, .av, .mv, .ms, .sv, .sz, .tf, .ne, .notAc, .notAv, .notMv, .notMs,
      .notSv, .notSz, .notTf]
    (s.dbr ≠ none → guard s i = none →
      (∀ e ∈ s.loops, e.endAddr ≠ s.pc) ∧
      ∀ t, exec i s = .next t →
        t.request = s.request ∧ t.pcStack = s.pcStack ∧ t.loops = s.loops ∧ t.idle = s.idle) ∧
    (s.dbr = none → (∃ e ∈ s.loops, near e) → ∀ u ∈ [UReg.laddr, .curlcntr],
      let stops (i : Instr) : Prop := guard s i = some .loopEnd
      (condOf i = .lce → stops i) ∧
      (∀ g long a, stops (.loadDirect g long u a) ∧ stops (.storeDirect g long u a)) ∧
      (∀ g k long a, stops (.loadIndexed g k long u a) ∧ stops (.storeIndexed g k long u a)) ∧
      (∀ data, stops (.loadImm u data)) ∧ (∀ rel, stops (.doCountReg u rel)) ∧
      ∀ cond c p, evalCond s cond = .ok p →
        ((p.cx && (!s.simd || p.cy)) = true →
          (∀ g post k m long store, stops (.uregMove cond c g post k m store long u)) ∧
          ∀ v, stops (.uregToUreg cond c u v) ∧ stops (.uregToUreg cond c v u)) ∧
        ((p.cx || p.cy) = true → ∀ v, hasComplement v = true → stops (.uregToUreg cond c v u))) ∧
    (∀ e before f after t, s.loops = e :: before → exec i s = .next t → t.loops = f :: after →
      after.length = before.length → f.laddr ≠ e.laddr → near f → finish s t = refuse .loopEnd) ∧
    (s.dbr = none → (∀ e ∈ s.loops, ¬ near e) →
      let stops (i : Instr) : Prop := guard s i = some .modeJustChanged
      (∀ (rn rx ry rm rs : RegNum) (mi : MfMulIn) (ai : MfAluIn) (mop : MfMulOp) (sub : Bool),
        (changed 13 → ∀ c ∈ [Compute.fix2 .add rn rx ry, .fix2 .sub rn rx ry, .fix2 .addCi rn rx ry,
          .fix2 .subCi rn rx ry, .fix1 .incCi rn rx, .fix1 .decCi rn rx, .fix1 .inc rn rx, .fix1 .dec rn rx,
          .fix1 .neg rn rx, .fix1 .abs rn rx, .dualFix rn rs rx ry, .flt1 .fix rn rx, .flt2 .fixBy rn rx ry,
          .flt1 .trunc rn rx, .flt2 .truncBy rn rx ry, .flt1 .logb rn rx, .mulAluFix mop .add rm rn mi ai,
          .mulAluFix mop .sub rm rn mi ai, .macAluFix sub .add rn mi ai, .macAluFix sub .sub rn mi ai,
          .mulAluFlt .fix rm rn mi ai, .mulDualFix rs rm rn mi ai], i.compute = c → stops i) ∧
        (changed 15 → ∀ c ∈ [Compute.fix2 .avg rn rx ry, .flt1 .rnd rn rx, .flt1 .float rn rx, .flt2 .floatBy rn rx ry,
          .flt1 .fix rn rx, .flt2 .fixBy rn rx ry, .mulAluFix mop .avg rm rn mi ai, .macAluFix sub .avg rn mi ai],
          i.compute = c → stops i) ∧
        (changed 15 ∨ changed 16 → ∀ c ∈ [Compute.flt2 .add rn rx ry, .flt2 .sub rn rx ry, .flt2 .absAdd rn rx ry,
          .flt2 .absSub rn rx ry, .flt2 .avg rn rx ry, .flt2 .scalb rn rx ry, .mulFlt rn rx ry, .dualFlt rn rs rx ry,
          .mulAbsFlt rm rn mi ai.xa, .mulDualFlt rs rm rn mi ai], i.compute = c → stops i) ∧
        (changed 15 ∨ changed 16 → ∀ op, i.compute = .mulAluFlt op rm rn mi ai → stops i)) ∧
      ((∀ cond, i ≠ .ifCompute cond .nop) →
        (changed 13 → condOf i ∈ ordered → stops i) ∧ (changed 21 → condOf i ∈ ofElement → stops i)) ∧
      (changed 21 → (i.compute ≠ .nop → stops i) ∧
        (∀ cond c dm pm sh g post k data store r mv rel j m,
          stops (.dualMove c dm pm) ∧ stops (.dregMoveImm cond c g post k data store r) ∧
          stops (.shiftImmMove cond sh g mv) ∧ stops (.shiftImm cond sh) ∧ stops (.jumpIndElse cond j m c mv) ∧
          stops (.jumpRelElse cond rel c mv)) ∧
        (∀ u, hasComplement u = true → ∀ cond c g post k m store long a v,
          stops (.uregMove cond c g post k m store long u) ∧ stops (.uregToUreg cond c u v) ∧
          stops (.loadDirect g long u a) ∧ stops (.storeDirect g long u a) ∧ stops (.loadIndexed g k long u a) ∧
          stops (.storeIndexed g k long u a) ∧ stops (.loadImm u a)) ∧
        (∀ r, hasComplement (.sys r) = true → ∀ a, stops (.bitSet r a) ∧ stops (.bitClr r a) ∧ stops (.bitTgl r a)) ∧
        (∀ r a, stops (.bitTst r a) ∧ stops (.bitXor r a)) ∧
        (∀ g k m a, stops (.storeImm g k m a)) ∧ (∀ t, stops (.cjumpAbs t) ∧ stops (.cjumpRel t)) ∧ stops .rframe) ∧
      (changed 24 → ∀ cond c dm pm sh g k data store r rel j m long u a,
        (s.l[g.reg k] ≠ 0#32 → stops (.uregMove cond c g true k m store long u) ∧
          stops (.dregMoveImm cond c g true k data store r) ∧ stops (.shiftImmMove cond sh g ⟨store, k, m, r⟩) ∧
          stops (.storeImm g k m a)) ∧
        (s.l[Dag.dm.reg dm.i] ≠ 0#32 → stops (.dualMove c dm pm) ∧ stops (.jumpIndElse cond j m c dm) ∧
          stops (.jumpRelElse cond rel c dm)) ∧
        (s.l[Dag.pm.reg pm.i] ≠ 0#32 → stops (.dualMove c dm pm))) ∧
      (∀ cond c (dm pm : DregMove) sh post data r rel j m long a,
        (changed 23 ∧ dm.i = 1 ∧ dm.store = false → stops (.dualMove c dm pm) ∧ stops (.jumpIndElse cond j m c dm) ∧
          stops (.jumpRelElse cond rel c dm) ∧ stops (.shiftImmMove cond sh .dm dm)) ∧
        (changed 22 ∧ pm.i = 1 ∧ pm.store = false →
          stops (.dualMove c dm pm) ∧ stops (.shiftImmMove cond sh .pm pm)) ∧
        ∀ g, changed (if g = .dm then 23 else 22) →
          stops (.dregMoveImm cond c g post 1 data false r) ∧
          ∀ u, hasComplement u = true →
            stops (.uregMove cond c g post 1 m false long u) ∧ stops (.loadIndexed g 1 long u a)) ∧
      ((∀ k ∈ [13, 15, 16, 21, 22, 23, 24], ¬ changed k) → guard s i = none) ∧
      guard s .nop = none ∧ ∀ cond, guard s (.ifCompute cond .nop) = none) ∧
    (s.dbr ≠ none → (∀ e ∈ s.loops, e.endAddr ≠ s.pc) → guard s .nop = none)

/-! ### Interrupts (60_exceptions.md, 41_program_flow.md R278) -/

/-- R554, R566, R559, R561: the requests, and the one looked for. Between two instructions each pair of sticky bits of
STKYx or STKYy that is set latches its arithmetic request, where the parameter has them: bit 23 by AOS or MOS, 24 by AVS
or MVS, 25 by AUS or MUS, 26 by AIS or MIS. Of the other bits only those the parameter names as set from outside can be
latched; no bit is ever lost, and none is latched while its interrupt is in service. Then the interrupt looked for is
the lowest latched bit, not in service, enabled by IRPTEN and IMASK unless it is bit 0 or 1, that may interrupt the one
in service: none is, or NESTM is set and it has the higher priority, or it is bit 0 or 1. -/
def Obligations.InterruptRequests : Prop :=
  ∀ s : State,
    let t := latchRequests s
    let sticky (k : Nat) : Bool := s.x.stky.getLsbD k || s.y.stky.getLsbD k
    let arithmetic (k : Nat) : Bool :=
      s.params.irq.arithmetic && (k == 23 && (sticky 2 || sticky 6) || k == 24 && (sticky 1 || sticky 7) ||
        k == 25 && (sticky 0 || sticky 8) || k == 26 && (sticky 5 || sticky 9))
    let able (k : Nat) : Prop :=
      s.latched k = true ∧ s.imaskp.getLsbD k = false ∧
        (k ≤ 1 ∨ (s.mode1.getLsbD 12 = true ∧ s.imask.getLsbD k = true)) ∧
        (s.imaskp = 0#32 ∨ (s.mode1.getLsbD 11 = true ∧ ∀ j, s.imaskp.getLsbD j = true → k < j) ∨ k ≤ 1)
    t = { s with irptl := t.irptl, hostIrq := t.hostIrq } ∧
    (∀ k, k < 32 → s.imaskp.getLsbD k = true → t.latched k = s.latched k) ∧
    (∀ k, k < 32 → s.imaskp.getLsbD k = false →
      (s.latched k = true → t.latched k = true) ∧
      (s.params.irq.external.getLsbD k = false → t.latched k = (s.latched k || arithmetic k)) ∧
      (arithmetic k = true → t.latched k = true)) ∧
    (∀ k, nextInterrupt s = some k ↔ able k ∧ ∀ j, j < k → ¬ able j) ∧ (nextInterrupt s = none ↔ ∀ k, ¬ able k)

/-- R561, R562: an interrupt is taken when no delayed branch is pending and it has been let pass as long as the parameter
allows: the idle state ends, the next PC is pushed, the status stack is pushed for the interrupts the table names and
MODE1 then loses the bits of MMASK, the interrupt is marked in IMASKP, IRPTL keeps its bit, PC goes to
`base + 4 * k`. A full stack faults. Between a delayed branch and its target nothing is taken. -/
def Obligations.InterruptEntry : Prop :=
  ∀ (s : State) (k : Nat), nextInterrupt s = some k → s.params.irq.maxLatency ≤ s.irqWait →
    (s.dbr = none →
      (s.pcStack.length < s.params.pcDepth →
        (s.params.irq.pushesStatus.getLsbD k = true → s.sts.length < s.params.stsDepth) →
        sampleInterrupts s =
          .ok { s with
            idle := false
            pcStack := ⟨s.pc, .call⟩ :: s.pcStack
            sts := if s.params.irq.pushesStatus.getLsbD k then ⟨s.mode1, s.x.astat, s.y.astat⟩ :: s.sts else s.sts
            mode1 :=
              if s.params.irq.pushesStatus.getLsbD k && s.params.irq.mmaskApplies then s.mode1 &&& ~~~s.mmask
              else s.mode1
            imaskp := s.imaskp ||| 1#32 <<< k
            pc := s.params.irq.base + BitVec.ofNat 24 (4 * k)
            straight := false
            irqWait := 0 }) ∧
      (s.params.pcDepth ≤ s.pcStack.length → sampleInterrupts s = .error (.fault (.stackOverflow .pc))) ∧
      (s.pcStack.length < s.params.pcDepth → s.params.irq.pushesStatus.getLsbD k = true →
        s.params.stsDepth ≤ s.sts.length → sampleInterrupts s = .error (.fault (.stackOverflow .status)))) ∧
    (s.dbr ≠ none → sampleInterrupts s = .ok s)

/-- R562, R278: an RTI undoes the entry of interrupt `k` it returns from: entry and then RTI leave both stacks, MODE1 and
both ASTATs as they were, clear the interrupt's latched bit and its bit of IMASKP and no others, and ask for the branch
to the return address. -/
def Obligations.ReturnUndoesEntry : Prop :=
  ∀ (s t : State) (k : Nat) (n : ProgAddr), k < 32 → (∀ j, j ≤ k → s.imaskp.getLsbD j = false) →
    takeInterrupt s k n = .ok t →
    ∃ u, exec (.rti .always false false .nop) t = .next u ∧
      u.request = some ⟨n, false, false⟩ ∧ u.pcStack = s.pcStack ∧ u.sts = s.sts ∧ u.mode1 = s.mode1 ∧
      u.x = s.x ∧ u.y = s.y ∧ u.imaskp = s.imaskp ∧
      (∀ j, u.latched j = (s.latched j && decide (j ≠ k))) ∧ u.mem = s.mem

/-- R346, R572: in the idle state a step executes nothing: with no interrupt to take the processor stays idle at its PC;
an interrupt that is taken ends the state, with that PC as the return address. -/
def Obligations.IdleWaits : Prop :=
  ∀ s : State, s.idle = true → s.dbr = none →
    let u := latchRequests (tickTimer (tick s))
    (nextInterrupt u = none →
      step s = .next { u with irqWait := 0, mode1Changed := 0#32 } ∧ u.idle = true ∧ u.pc = s.pc) ∧
    (∀ k t, nextInterrupt u = some k → step s = .next t →
      (t.idle = true ∧ t.pc = s.pc) ∨ (t.idle = false ∧ t.pc = vectorOf s k ∧ t.pcStack = ⟨s.pc, .call⟩ :: s.pcStack))

/-! ### Reset and invariants -/

/-- The reset state satisfies the invariant of `StepKeepsGood`. -/
def Obligations.ResetIsGood : Prop := Good State.reset

/-- The model's choice where the spec gives no reset value (log entries 5 to 8): on both elements data and MR registers,
ASTAT, STKY and AU are 0; DAG registers, PX1, PX2, USTAT1 to USTAT4, MODE1, MODE2, MMASK, FLAGS, IRPTL, IMASKP, LIRPTL,
LCNTR, TPERIOD and TCOUNT are 0, IMASK is 3; no outside request; empty stacks, not idle, no delayed branch, nothing
stale; PC at 0x040004. Memory lists nothing and an unlisted byte reads 0 (log entry 3). -/
def Obligations.ResetRegisters : Prop :=
  let s := State.reset
  (∀ n : RegNum, s.x.rf[n] = 0#40 ∧ s.y.rf[n] = 0#40 ∧ s.i[n] = 0#32 ∧ s.m[n] = 0#32 ∧ s.l[n] = 0#32 ∧
    s.b[n] = 0#32) ∧
  (∀ p ∈ [s.x, s.y], p.mrf = 0#80 ∧ p.mrb = 0#80 ∧ p.astat = 0#32 ∧ p.stky = 0#32 ∧ p.au = false) ∧
  (∀ r ∈ [s.px1, s.px2, s.ustat1, s.ustat2, s.ustat3, s.ustat4, s.mode1, s.mode2, s.mmask, s.flags, s.irptl, s.hostIrq,
    s.imaskp, s.lirptl, s.lcntr, s.tperiod, s.tcount], r = 0#32) ∧
  s.imask = 3#32 ∧ s.pcStack = [] ∧ s.loops = [] ∧ s.sts = [] ∧ s.idle = false ∧ s.dbr = none ∧ s.stale = [] ∧
  s.pc = 0x040004#24 ∧ s.mem = [] ∧ ∀ k, s.mem.read k = 0#8

/-- Every step keeps the invariant: memory and the stale set in canonical form, the stacks within their depths (R264),
the alternate bits of MODE1 and of every saved MODE1 zero (R53, U27), the read-only bits of MODE2 and the computed bits
of STKYx not stored (R46, R55), no branch request left over and a pending delayed branch with one or two slots to go
(R260, R261). -/
def Obligations.StepKeepsGood : Prop :=
  ∀ s t : State, Good s → step s = .next t → Good t

/-! ### Frames -/

/-- R125, R103, R107, R108, R115: whatever an instruction does, every byte of memory outside the cells it stores to reads
as before. `storedCells` computes those cells with the same address functions the meanings use; of a cell an instruction
stores to, the bytes above its width are also kept. -/
def Obligations.MemoryFrame : Prop :=
  ∀ (i : Instr) (s t : State), s.mem.wf → exec i s = .next t →
    ∀ (a : Word) (lane : Nat), lane < 8 → (a ∉ storedCells i s ∨ cellLanes s a ≤ lane) →
      t.mem.read (cellKey a lane) = s.mem.read (cellKey a lane)

/-- R127: an instruction adds to the addresses that may not be fetched exactly the cells it stores to, those of devices
aside; only one with the FLUSH CACHE action takes addresses away, and it takes them all. -/
def Obligations.StoresGoStale : Prop :=
  ∀ (i : Instr) (s t : State), exec i s = .next t →
    (flushes i = true → t.stale = []) ∧
    (flushes i = false → ∀ a, a ∈ t.stale ↔ a ∈ s.stale ∨ (a ∈ storedCells i s ∧ s.region a ≠ .device))

/-- R50 to R59, R63: whatever an instruction does, every universal register outside `destinations` reads as before; an MR
register it does not write is kept; PC, the parameters, the pending delayed branch and the model's own bookkeeping are
kept (the step, not the instruction, advances them). -/
def Obligations.RegisterFrame : Prop :=
  ∀ (i : Instr) (s t : State), exec i s = .next t →
    (∀ u, u ∉ destinations i s → t.readUReg u = s.readUReg u) ∧
    (∀ bank e, mrWritten i.compute ≠ some bank → (t.pe e).mr bank = (s.pe e).mr bank) ∧
    t.pc = s.pc ∧ t.params = s.params ∧ t.dbr = s.dbr ∧ t.clock = s.clock ∧ t.history = s.history ∧
    t.straight = s.straight ∧ t.mode1Changed = s.mode1Changed ∧ t.irqWait = s.irqWait

/-- R51, R54: a compute changes only the ASTAT bits of its units, never clears a sticky bit and sets only those of its
units, writes only the data registers it names and only its MR register. -/
def Obligations.UnitFrame : Prop :=
  ∀ (c : Compute) (env : Env) (p : Pe),
    let q := p.apply (evalCompute c env p)
    (∀ k, (flagMask c).getLsbD k = false → q.astat.getLsbD k = p.astat.getLsbD k) ∧
    (∀ k, p.stky.getLsbD k = true → q.stky.getLsbD k = true) ∧
    (∀ k, (stickyMask c).getLsbD k = false → q.stky.getLsbD k = p.stky.getLsbD k) ∧
    (∀ n, n ∉ destRegs c → q.rf[n] = p.rf[n]) ∧
    ∀ bank, mrWritten c ≠ some bank → q.mr bank = p.mr bank

/-! ### Compute and move (40_compute_move.md) -/

/-- R223, R229: a conditional compute or immediate shift runs on the elements where its condition holds; with an
all-zero COMPUTE field and any condition nothing is done, not even the condition is read. -/
def Obligations.ConditionalForms : Prop :=
  ∀ (s : State) (cond : Cond),
    exec (.ifCompute cond .nop) s = .next s ∧
    ∀ p, evalCond s cond = .ok p →
      (∀ c, (destRegs c).Nodup → exec (.ifCompute cond c) s = .next (computed s c p)) ∧
      ∀ sh, exec (.shiftImm cond sh) s = .next (shifted s sh p)

/-- R222: Type 1 makes the compute, the data memory move and the program memory move together, all from the state before
it, and post-modifies both index registers once; two writes to one register or cell are refused (U4). A move at a
location the map declares long is of the register's pair, with a LongWordModel (log entry 20). Two stores to one address
of a device are refused too (U4, log entry 40). That a broadcast load is made in SISD mode too is the spec's decision
D29 (R116); a broadcast load at a long location loads the named pair only, the model's choice (log entry 56). -/
def Obligations.DualMove : Prop :=
  ∀ (s : State) (c : Compute) (dm pm : DregMove),
    let p := allElements s
    let ka := Dag.dm.reg dm.i
    let kc := Dag.pm.reg pm.i
    (s.simd = false → dm.store = true → pm.store = true → s.i[ka] = s.i[kc] → s.region s.i[ka] = .device →
      exec (.dualMove c dm pm) s = .refused .doubleWrite) ∧
    (partMovable s dm.store (broadcast s ka) s.i[ka] (.r dm.reg) p →
      partMovable s pm.store (broadcast s kc) s.i[kc] (.r pm.reg) p →
      let places := computePlaces s c p ++ partPlaces s dm.store (broadcast s ka) s.i[ka] (.r dm.reg) p ++
        partPlaces s pm.store (broadcast s kc) s.i[kc] (.r pm.reg) p ++
        postPlaces s true ka s.m[Dag.dm.reg dm.m] ++ postPlaces s true kc s.m[Dag.pm.reg pm.m]
      (places.Nodup → exec (.dualMove c dm pm) s =
        .next (postModified s (postModified s
          (partMoved s (partMoved s (computed s c p) dm.store (broadcast s ka) s.i[ka] (.r dm.reg) p)
            pm.store (broadcast s kc) s.i[kc] (.r pm.reg) p)
          true ka s.m[Dag.dm.reg dm.m]) true kc s.m[Dag.pm.reg pm.m])) ∧
      (¬ places.Nodup → exec (.dualMove c dm pm) s = .refused .doubleWrite))

/-- R224, R225, R228: Types 3, 4 and 6a make their compute (or immediate shift) and their move on the elements where the
condition holds, all from the state before, and update the index once if either element ran and post-modify is asked
for. The address is `I` for a post-modify and `I + modifier` for a pre-modify; the modifier is an M register, or for
Type 4 the sign-extended 6-bit data. A Type 3 register is of the other DAG or of none. No (LW); at a location the map
declares long the move is of the register's pair, with a LongWordModel (log entry 20). Two writes to one register or
cell are refused (U4). That one update of the index is made when either element ran is the spec's decision D18 (R118),
that a broadcast load is made in SISD mode too its decision D29 (R116); a broadcast load at a long location loads the
named pair only, the model's choice (log entry 56). -/
def Obligations.IndexedMoves : Prop :=
  ∀ (s : State) (cond : Cond) (c : Compute) (sh : ShiftImm) (g : Dag) (post store : Bool) (i m : Fin 8)
    (data : BitVec 6) (reg : RegNum) (u : UReg) (p : CondPair), evalCond s cond = .ok p →
    let k := g.reg i
    let bc := broadcast s k
    let address (mm : Word) : Word := if post then s.i[k] else s.i[k] + mm
    let places (a mm : Word) (v : UReg) : List Place :=
      computePlaces s c p ++ partPlaces s store bc a v p ++ postPlaces s (post && (p.cx || p.cy)) k mm
    let after (a mm : Word) (v : UReg) : State :=
      postModified s (partMoved s (computed s c p) store bc a v p) (post && (p.cx || p.cy)) k mm
    (sameDag g u = false → partMovable s store bc (address s.m[g.reg m]) u p →
      ((places (address s.m[g.reg m]) s.m[g.reg m] u).Nodup →
        exec (.uregMove cond c g post i m store false u) s =
          .next (after (address s.m[g.reg m]) s.m[g.reg m] u)) ∧
      (¬ (places (address s.m[g.reg m]) s.m[g.reg m] u).Nodup →
        exec (.uregMove cond c g post i m store false u) s = .refused .doubleWrite)) ∧
    (partMovable s store bc (address (data.signExtend 32)) (.r reg) p →
      ((places (address (data.signExtend 32)) (data.signExtend 32) (.r reg)).Nodup →
        exec (.dregMoveImm cond c g post i data store reg) s =
          .next (after (address (data.signExtend 32)) (data.signExtend 32) (.r reg))) ∧
      (¬ (places (address (data.signExtend 32)) (data.signExtend 32) (.r reg)).Nodup →
        exec (.dregMoveImm cond c g post i data store reg) s = .refused .doubleWrite)) ∧
    (partMovable s store bc s.i[k] (.r reg) p →
      let places := shiftPlaces s sh p ++ partPlaces s store bc s.i[k] (.r reg) p ++
        postPlaces s (p.cx || p.cy) k s.m[g.reg m]
      (places.Nodup →
        exec (.shiftImmMove cond sh g ⟨store, i, m, reg⟩) s =
          .next (postModified s (partMoved s (shifted s sh p) store bc s.i[k] (.r reg) p) (p.cx || p.cy) k
            s.m[g.reg m])) ∧
      (¬ places.Nodup →
        exec (.shiftImmMove cond sh g ⟨store, i, m, reg⟩) s = .refused .doubleWrite))

/-- R226, R227: Type 5a moves a universal register to a universal register: into a register with a complement on each
element where the condition holds, the complements on PEy; into one without, once, from the X view of the source, when
it holds on every active element (D20). Type 5b exchanges all 40 bits of a data register of PEx and one of PEy when the
condition holds on every active element, in SISD and SIMD mode alike (D20). -/
def Obligations.RegisterMoves : Prop :=
  ∀ (s : State) (cond : Cond) (c : Compute) (p : CondPair), evalCond s cond = .ok p →
    (∀ dst src : UReg,
      let goX := if hasComplement dst then p.cx else p.cx && (!s.simd || p.cy)
      let goY := hasComplement dst && p.cy
      (s.params.px = .absent → dst ≠ src → dst ≠ .px ∧ src ≠ .px) →
      (goX = true → (∃ v, s.readUReg src = .ok v) ∧ s.writeRefusal dst (valueOf s src) = none) →
      (goY = true → (∃ v, s.readUReg (complement src) = .ok v) ∧
        s.writeRefusal (complement dst) (valueOf s (complement src)) = none) →
      let places := computePlaces s c p ++ (if goX then regPlaces dst else []) ++
        if goY then regPlaces (complement dst) else []
      let t := computed s c p
      let t := if goX then t.writeUReg dst (valueOf s src) else t
      let t := if goY then t.writeUReg (complement dst) (valueOf s (complement src)) else t
      (places.Nodup → exec (.uregToUreg cond c dst src) s = .next t) ∧
      (¬ places.Nodup → exec (.uregToUreg cond c dst src) s = .refused .doubleWrite)) ∧
    ∀ a b : RegNum,
      let go := p.cx && (!s.simd || p.cy)
      let places := computePlaces s c p ++ if go then [.ureg (.r a), .ureg (.s b)] else []
      let t := computed s c p
      (places.Nodup → exec (.swap cond c a b) s =
        .next (if go then
          { t with x := { t.x with rf := t.x.rf.set a s.y.rf[b] }, y := { t.y with rf := t.y.rf.set b s.x.rf[a] } }
        else t)) ∧
      (¬ places.Nodup → exec (.swap cond c a b) s = .refused .doubleWrite)

/-- R311 to R316: Type 14 moves a universal register at a direct address, Type 15 at `I + data` without updating the
index, with the register's complement at the next address in SIMD mode (normal words). Type 16 stores 32 bits of
immediate data at `I`, in SIMD mode also at the next address, and post-modifies the index; Type 17 loads them into a
register, in SIMD mode also into its complement; PX, PC, FADDR and DADDR are refused as destinations. -/
def Obligations.ImmediateMoves : Prop :=
  ∀ (s : State) (g : Dag) (i m : Fin 8) (u : UReg) (a data : Word),
    let p := allElements s
    let k := g.reg i
    (movableBoth s true false a u p →
      exec (.storeDirect g false u a) s = .next (movedBoth s s true false a u p)) ∧
    (movableBoth s false false a u p →
      exec (.loadDirect g false u a) s = .next (movedBoth s s false false a u p)) ∧
    (sameDag g u = false → movableBoth s true (broadcast s k) (s.i[k] + a) u p →
      exec (.storeIndexed g i false u a) s = .next (movedBoth s s true (broadcast s k) (s.i[k] + a) u p)) ∧
    (sameDag g u = false → movableBoth s false (broadcast s k) (s.i[k] + a) u p →
      exec (.loadIndexed g i false u a) s = .next (movedBoth s s false (broadcast s k) (s.i[k] + a) u p)) ∧
    (plainCell s s.i[k] → (s.simd = true → plainCell s (s.i[k] + 1#32)) →
      exec (.storeImm g i m data) s =
        .next (postModified s
          (if s.simd then stored (stored s s.i[k] (bus32 data)) (s.i[k] + 1#32) (bus32 data)
            else stored s s.i[k] (bus32 data)) true k s.m[g.reg m])) ∧
    (u ≠ .px → s.writeRefusal u (bus32 data) = none →
      (s.simd = true → hasComplement u = true → s.writeRefusal (complement u) (bus32 data) = none) →
      exec (.loadImm u data) s =
        .next (if s.simd && hasComplement u then (s.writeUReg u (bus32 data)).writeUReg (complement u) (bus32 data)
          else s.writeUReg u (bus32 data))) ∧
    exec (.loadImm .px data) s = .refused .pxMove ∧
    (u ∈ [UReg.pc, .faddr, .daddr] → exec (.loadImm u data) s = .refused .readOnlyRegister)

/-- R130: a Type 3 or Type 15 move of an I, M, L or B register of the DAG that forms the address is refused (U5); Type 14
has no such restriction. -/
def Obligations.SameDagRefused : Prop :=
  ∀ (s : State) (g : Dag) (n : RegNum) (u : UReg), u ∈ [UReg.i n, .m n, .l n, .b n] →
    ((n.val < 8 ↔ g = .dm) →
      (∀ cond c post i m store long, exec (.uregMove cond c g post i m store long u) s = .refused .sameDag) ∧
      (∀ i long data, exec (.storeIndexed g i long u data) s = .refused .sameDag) ∧
      ∀ i long data, exec (.loadIndexed g i long u data) s = .refused .sameDag) ∧
    (∀ space long a, exec (.storeDirect space long u a) s ≠ .refused .sameDag) ∧
    ∀ space long a, exec (.loadDirect space long u a) s ≠ .refused .sameDag

/-- The model's choice for long words (log entry 20; R108 leaves them to the parameter LongWordModel, D8): Types 3, 14 and
15 with (LW) at a pair of 32-bit cells, the named register's pair with the lower half at the even address, and with or
without (LW) at a location the map declares long, which holds the lower half in its low 32 bits. The move is made once;
Type 3 makes it with its compute and post-modify where its condition holds, on both elements in SIMD mode. Without the
parameter it is refused, and so are the moves of Types 1, 4, 6a and 10 at a long location, which with it are those of
DualMove, IndexedMoves and JumpOrMove. Which registers have a neighbour is log entry 54. -/
def Obligations.LongWordMoves : Prop :=
  ∀ (s : State) (g : Dag) (i m : Fin 8) (u : UReg) (a : Word) (long : Bool) (cond : Cond) (c : Compute)
    (post store : Bool) (p : CondPair), (u = .px → s.params.px ≠ .absent) → neighbours u ≠ none →
    evalCond s cond = .ok p → (s.simd = true → p.cx = p.cy) →
    let all := allElements s
    let k := g.reg i
    let mm := s.m[g.reg m]
    let at3 : Word := if post then s.i[k] else s.i[k] + mm
    let places := computePlaces s c p ++ pairPlaces s store at3 u p ++ postPlaces s (post && p.cx) k mm
    let after := postModified s (pairMoved s (computed s c p) store at3 u p) (post && p.cx) k mm
    (s.params.longWord = .neighbourPair →
      (pairReached s long a →
        exec (.storeDirect g long u a) s = .next (pairMoved s s true a u all) ∧
        exec (.loadDirect g long u a) s = .next (pairMoved s s false a u all)) ∧
      (sameDag g u = false → pairReached s long (s.i[k] + a) →
        exec (.storeIndexed g i long u a) s = .next (pairMoved s s true (s.i[k] + a) u all) ∧
        exec (.loadIndexed g i long u a) s = .next (pairMoved s s false (s.i[k] + a) u all)) ∧
      (sameDag g u = false → pairReached s long at3 →
        (places.Nodup → exec (.uregMove cond c g post i m store long u) s = .next after) ∧
        (¬ places.Nodup → exec (.uregMove cond c g post i m store long u) s = .refused .doubleWrite))) ∧
    (s.params.longWord = .absent →
      (pairReached s long a →
        exec (.storeDirect g long u a) s = .refused .longWord ∧
        exec (.loadDirect g long u a) s = .refused .longWord) ∧
      (sameDag g u = false → pairReached s long (s.i[k] + a) →
        exec (.storeIndexed g i long u a) s = .refused .longWord ∧
        exec (.loadIndexed g i long u a) s = .refused .longWord) ∧
      (sameDag g u = false → pairReached s long at3 → p.cx = true →
        exec (.uregMove cond c g post i m store long u) s = .refused .longWord) ∧
      (∀ (data : BitVec 6) (reg : RegNum),
        s.region (if post then s.i[k] else s.i[k] + data.signExtend 32) = .long → p.cx = true →
        exec (.dregMoveImm cond c g post i data store reg) s = .refused .longWord) ∧
      (∀ (sh : ShiftImm) (reg : RegNum), s.region s.i[k] = .long → p.cx = true →
        exec (.shiftImmMove cond sh g ⟨store, i, m, reg⟩) s = .refused .longWord) ∧
      (∀ mv : DregMove, s.region s.i[Dag.dm.reg mv.i] = .long → p.cx = false →
        (∀ j n, exec (.jumpIndElse cond j n c mv) s = .refused .longWord) ∧
        ∀ rel, exec (.jumpRelElse cond rel c mv) s = .refused .longWord) ∧
      ∀ dm pm : DregMove,
        let ka := Dag.dm.reg dm.i
        let kc := Dag.pm.reg pm.i
        let normal (mv : DregMove) (k : RegNum) : Prop := movableBoth s mv.store (broadcast s k) s.i[k] (.r mv.reg) all
        (s.region s.i[ka] = .long ∨ (normal dm ka ∧ s.region s.i[kc] = .long)) →
          exec (.dualMove c dm pm) s = .refused .longWord)

/-- R103, R104, R109, R125: a load from a cell just stored to gives the value, as many of its bits as the cell holds:
32 of them, 40 where the cell has 40, 48 of PX where it has 48; a load from any other cell gives what it gave. -/
def Obligations.LoadAfterStore : Prop :=
  ∀ (s : State) (a c : Word) (v : BusWord), s.mem.wf → s.region a ≠ .absent → s.region a ≠ .device →
    (cellValue (stored s a v) a = v &&& (BitVec.allOnes 64 <<< (64 - 8 * cellLanes s a))) ∧
    (c ≠ a → cellValue (stored s a v) c = cellValue s c)

/-- R112 to R114, R230, R336, R337: MODIFY updates the index register by the circular wrap whatever CBUFEN is, Type 7
once where its condition holds on some element, and BITREV writes the same value with its 32 bits reversed (D22); a
post-modify wraps only with CBUFEN. In a buffer of length `L` at `B` that holds the index and lies in the address space,
with a modifier no larger than `L`, the value `a` is in the buffer and differs from `I + m` by a multiple of `L`, by
none unless `I + m` is outside it, when the buffer wraps. With `L` = 0 it is `I + m` modulo 2^32. A wrap of I7 sets CB7S
of STKYx, of I15 CB15S: bits 17 and 18 (R54, R567, log entry 26: the model's choice). -/
def Obligations.CircularModify : Prop :=
  ∀ (s : State) (g : Dag) (i m : Fin 8) (data : Word),
    let k := g.reg i
    ∃ (next : Word → Word) (wrapped : Word → Bool),
      let written (t : State) (m v : Word) : State :=
        { t with
          i := t.i.set k v
          x := if wrapped m && decide (k = 7 ∨ k = 15) then
              { t.x with stky := setBit t.x.stky (if k = 7 then 17 else 18) true }
            else t.x }
      exec (.modifyImm g i data) s = .next (written s data (next data)) ∧
      (∃ r : Word, (∀ j, j < 32 → r.getLsbD j = (next data).getLsbD (31 - j)) ∧
        exec (.bitrev g i data) s = .next (written s data r)) ∧
      (∀ (cond : Cond) (c : Compute) (p : CondPair), evalCond s cond = .ok p → (destRegs c).Nodup →
        exec (.modifyReg cond c g i m) s =
          .next (if p.cx || p.cy then written (computed s c p) s.m[g.reg m] (next s.m[g.reg m]) else computed s c p)) ∧
      ∀ m : Word,
        (postmod s k m = if cbufen s.mode1 then next m else s.i[k] + m) ∧
        (s.l[k] = 0#32 → next m = s.i[k] + m ∧ wrapped m = false) ∧
        (s.l[k] ≠ 0#32 → s.b[k].toNat + s.l[k].toNat ≤ 2 ^ 32 → s.b[k].toNat ≤ s.i[k].toNat →
          s.i[k].toNat < s.b[k].toNat + s.l[k].toNat → m.toInt.natAbs ≤ s.l[k].toNat →
          let sum : Int := (s.i[k].toNat : Int) + m.toInt
          (s.b[k].toNat ≤ (next m).toNat ∧ (next m).toNat < s.b[k].toNat + s.l[k].toNat) ∧
            (s.l[k].toNat : Int) ∣ ((next m).toNat : Int) - sum ∧
            (wrapped m = true ↔ sum < s.b[k].toNat ∨ (s.b[k].toNat : Int) + s.l[k].toNat ≤ sum))
/-! ### Program flow (41_program_flow.md) -/

/-- R262, R263, R265 to R267, R269, R271, R273: a jump is taken when its condition holds on every active element. Taken,
it clears the current interrupt for (CI), the lowest set in IMASKP, pops the innermost loop for (LA) unless it is
delayed (then with the transfer; an empty stack faults, U6), and asks for the branch to its target: the address, PC plus
the offset, or `I + M` of DAG2. Not taken it changes nothing. Types 9a and 9b also make their compute, with ELSE on the
elements where the condition is false. -/
def Obligations.Jumps : Prop :=
  ∀ (s : State) (cond : Cond) (mods : JumpMods) (els : Bool) (i m : Fin 8) (c : Compute) (addr rel : ProgAddr)
    (rel6 : BitVec 6) (p : CondPair), evalCond s cond = .ok p → (destRegs c).Nodup →
    let done := computed s c (elseElements s p els)
    let all (o : Host.Outcome State Fault Refusal) : Prop :=
      exec (.jumpAbs cond mods addr) s = o ∧ exec (.jumpRel cond mods rel) s = o ∧
      exec (.jumpInd cond mods els i m c) s = o ∧ exec (.jumpRel6 cond mods els rel6 c) s = o
    ((p.cx && (!s.simd || p.cy)) = true → canAbort s mods →
      exec (.jumpAbs cond mods addr) s = .next (jumped s mods addr) ∧
      exec (.jumpRel cond mods rel) s = .next (jumped s mods (s.pc + rel)) ∧
      exec (.jumpInd cond mods els i m c) s =
        .next (jumped done mods ((s.i[Dag.pm.reg i] + s.m[Dag.pm.reg m]).extractLsb' 0 24)) ∧
      exec (.jumpRel6 cond mods els rel6 c) s = .next (jumped done mods (s.pc + rel6.signExtend 24))) ∧
    ((p.cx && (!s.simd || p.cy)) = true → mods.loopAbort = true → mods.delayed = false →
        (s.loops = [] → all (.fault (.stackUnderflow .loop))) ∧
        (s.loops ≠ [] → s.pcStack = [] → all (.fault (.stackUnderflow .pc)))) ∧
    ((p.cx && (!s.simd || p.cy)) = false →
      exec (.jumpAbs cond mods addr) s = .next s ∧ exec (.jumpRel cond mods rel) s = .next s ∧
      exec (.jumpInd cond mods els i m c) s = .next done ∧ exec (.jumpRel6 cond mods els rel6 c) s = .next done) ∧
    (s.imaskp = 0#32 → clearInterrupt s = s) ∧
    ∀ k, s.imaskp.getLsbD k = true → (∀ j, j < k → s.imaskp.getLsbD j = false) →
      clearInterrupt s =
        { s with
          irptl := s.irptl &&& ~~~(1#32 <<< k)
          hostIrq := s.hostIrq &&& ~~~(1#32 <<< k)
          imaskp := s.imaskp &&& ~~~(1#32 <<< k) }

/-- R262, R264, R268, R270, R272, R274, R263: a call is taken when its condition holds on every active element: it
pushes `a + 1`, or `a + 3` for a delayed call, and asks for the branch; on a full PC stack it faults (U6). Not taken it
pushes nothing. Types 9a and 9b also make their compute, with ELSE on the elements where the condition is false. Which
address is pushed, `a + 1` or `a + 3`, is the spec's general knowledge in R261 and R268 and its decision D13. -/
def Obligations.Calls : Prop :=
  ∀ (s : State) (cond : Cond) (delayed els : Bool) (i m : Fin 8) (c : Compute) (addr rel : ProgAddr) (rel6 : BitVec 6)
    (p : CondPair), evalCond s cond = .ok p → (destRegs c).Nodup →
    let done := computed s c (elseElements s p els)
    let after (t : State) (target : ProgAddr) : State :=
      { t with
        pcStack := ⟨if delayed then s.pc + 3#24 else s.pc + 1#24, .call⟩ :: s.pcStack
        request := some ⟨target, delayed, false⟩ }
    ((p.cx && (!s.simd || p.cy)) = true → s.pcStack.length < s.params.pcDepth →
      exec (.callAbs cond delayed addr) s = .next (after s addr) ∧
      exec (.callRel cond delayed rel) s = .next (after s (s.pc + rel)) ∧
      exec (.callInd cond delayed els i m c) s =
        .next (after done ((s.i[Dag.pm.reg i] + s.m[Dag.pm.reg m]).extractLsb' 0 24)) ∧
      exec (.callRel6 cond delayed els rel6 c) s = .next (after done (s.pc + rel6.signExtend 24))) ∧
    ((p.cx && (!s.simd || p.cy)) = true → s.params.pcDepth ≤ s.pcStack.length →
      exec (.callAbs cond delayed addr) s = .fault (.stackOverflow .pc) ∧
      exec (.callRel cond delayed rel) s = .fault (.stackOverflow .pc) ∧
      exec (.callInd cond delayed els i m c) s = .fault (.stackOverflow .pc) ∧
      exec (.callRel6 cond delayed els rel6 c) s = .fault (.stackOverflow .pc)) ∧
    ((p.cx && (!s.simd || p.cy)) = false →
      exec (.callAbs cond delayed addr) s = .next s ∧ exec (.callRel cond delayed rel) s = .next s ∧
      exec (.callInd cond delayed els i m c) s = .next done ∧ exec (.callRel6 cond delayed els rel6 c) s = .next done)

/-- R275, R276: Type 10 jumps when its condition holds on every active element, and makes its compute and its
post-modified data memory move on the elements where the condition is false; the index is updated once if any such
element is active. A move at a location the map declares long is of the register's pair, with a LongWordModel (log entry
20). The one update of the index is the spec's decision D18 (R118), a broadcast load in SISD mode its decision D29
(R116); a broadcast load at a long location loads the named pair only, the model's choice (log entry 56). -/
def Obligations.JumpOrMove : Prop :=
  ∀ (s : State) (cond : Cond) (i m : Fin 8) (rel6 : BitVec 6) (c : Compute) (mv : DregMove) (p : CondPair),
    evalCond s cond = .ok p →
    let q : CondPair := ⟨!p.cx, s.simd && !p.cy⟩
    let k := Dag.dm.reg mv.i
    partMovable s mv.store (broadcast s k) s.i[k] (.r mv.reg) q →
    let places := computePlaces s c q ++ partPlaces s mv.store (broadcast s k) s.i[k] (.r mv.reg) q ++
      postPlaces s (q.cx || q.cy) k s.m[Dag.dm.reg mv.m]
    let t := postModified s (partMoved s (computed s c q) mv.store (broadcast s k) s.i[k] (.r mv.reg) q)
      (q.cx || q.cy) k s.m[Dag.dm.reg mv.m]
    let after (target : ProgAddr) : State :=
      if p.cx && (!s.simd || p.cy) then { t with request := some ⟨target, false, false⟩ } else t
    (places.Nodup →
      exec (.jumpIndElse cond i m c mv) s =
        .next (after ((s.i[Dag.pm.reg i] + s.m[Dag.pm.reg m]).extractLsb' 0 24)) ∧
      exec (.jumpRelElse cond rel6 c mv) s = .next (after (s.pc + rel6.signExtend 24))) ∧
    (¬ places.Nodup →
      exec (.jumpIndElse cond i m c mv) s = .refused .doubleWrite ∧
      exec (.jumpRelElse cond rel6 c mv) s = .refused .doubleWrite)

/-- R277, R279, R263: a taken RTS pops the return address and asks for the branch to it; an empty PC stack faults (U6); a
return into one of the last three addresses of the innermost loop that is neither delayed nor has (LR) is refused (U23).
Not taken it pops nothing. Its compute is made, with ELSE on the elements where the condition is false. -/
def Obligations.Returns : Prop :=
  ∀ (s : State) (cond : Cond) (delayed els lr : Bool) (c : Compute) (p : CondPair), evalCond s cond = .ok p →
    (destRegs c).Nodup →
    let done := computed s c (elseElements s p els)
    ((p.cx && (!s.simd || p.cy)) = true →
      (∀ a src rest, s.pcStack = ⟨a, src⟩ :: rest →
        let near := ∃ e ∈ s.loops.head?, a = e.endAddr ∨ a + 1#24 = e.endAddr ∨ a + 2#24 = e.endAddr
        (near ∧ delayed = false ∧ lr = false → exec (.rts cond delayed els lr c) s = .refused .loopReentry) ∧
        (¬ (near ∧ delayed = false ∧ lr = false) →
          exec (.rts cond delayed els lr c) s =
            .next { done with pcStack := rest, request := some ⟨a, delayed, false⟩ })) ∧
      (s.pcStack = [] → exec (.rts cond delayed els lr c) s = .fault (.stackUnderflow .pc))) ∧
    ((p.cx && (!s.simd || p.cy)) = false → exec (.rts cond delayed els lr c) s = .next done)

/-- R278, R563, R263: a taken RTI pops the return address and asks for the branch to it, clears the bits of the current
interrupt, the lowest set in IMASKP, in IRPTL and IMASKP, and if that interrupt pushed the status stack restores MODE1
and both ASTATs from it, over what its compute wrote. With no interrupt in service it restores and clears nothing; an
empty stack it must pop faults (U6). Its compute is made, with ELSE on the elements where the condition is false. -/
def Obligations.InterruptReturns : Prop :=
  ∀ (s : State) (cond : Cond) (delayed els : Bool) (c : Compute) (p : CondPair), evalCond s cond = .ok p →
    (destRegs c).Nodup →
    let done := computed s c (elseElements s p els)
    ((p.cx && (!s.simd || p.cy)) = true →
      (∀ a src rest, s.pcStack = ⟨a, src⟩ :: rest →
        (s.imaskp = 0#32 →
          exec (.rti cond delayed els c) s =
            .next { done with pcStack := rest, request := some ⟨a, delayed, false⟩ }) ∧
        (∀ k, s.imaskp.getLsbD k = true → (∀ j, j < k → s.imaskp.getLsbD j = false) →
          let ended (t : State) : State :=
            { t with
              pcStack := rest
              irptl := s.irptl &&& ~~~(1#32 <<< k)
              hostIrq := s.hostIrq &&& ~~~(1#32 <<< k)
              imaskp := s.imaskp &&& ~~~(1#32 <<< k)
              request := some ⟨a, delayed, false⟩ }
          (s.params.irq.pushesStatus.getLsbD k = false → exec (.rti cond delayed els c) s = .next (ended done)) ∧
          (s.params.irq.pushesStatus.getLsbD k = true →
            (∀ e more, s.sts = e :: more →
              exec (.rti cond delayed els c) s =
                .next (ended { done with
                  sts := more
                  mode1 := e.mode1
                  x := { done.x with astat := e.astatx }
                  y := { done.y with astat := e.astaty } })) ∧
            (s.sts = [] → exec (.rti cond delayed els c) s = .fault (.stackUnderflow .status))))) ∧
      (s.pcStack = [] → exec (.rti cond delayed els c) s = .fault (.stackUnderflow .pc))) ∧
    ((p.cx && (!s.simd || p.cy)) = false → exec (.rti cond delayed els c) s = .next done)

/-- R280, R281, R283: a loop set-up pushes the next address on the PC stack and the end address with the termination
code on the loop stacks, with the counter: 16 bits of immediate data or a register loaded into LCNTR, or LCNTR as it is.
PX is refused as the register (U13). Full stacks fault (U6). A set-up is refused (U22) when the end is not beyond the
set-up itself, is the end of another active loop, or the set-up stands at the last, second last or third last address of
an active loop. That Type 13 pushes the counter stack too, with LCNTR as it is, is the spec's general knowledge in R44
and R283, the 32 bits of LCNTR its decision D3. What made each entry is the model's own note (log entry 29). -/
def Obligations.LoopSetUp : Prop :=
  ∀ (s : State) (count : BitVec 16) (u : UReg) (term : Cond) (rel : ProgAddr) (v : BusWord),
    exec (.doCountReg .px rel) s = .refused .pxMove ∧
    (u ≠ .px → s.readUReg u = .ok v →
      let after (n : Word) (term : Cond) : State :=
        { s with
          lcntr := n
          pcStack := ⟨s.pc + 1#24, .loop s.clock⟩ :: s.pcStack
          loops :=
            ⟨(if term = .lce then 1#3 else 0#3) ++ (term.code ++ (s.pc + rel)), n, some ⟨s.clock, s.pc + 1#24⟩⟩ :: s.loops }
      let all (o : Host.Outcome State Fault Refusal) : Prop :=
        exec (.doCountImm count rel) s = o ∧ exec (.doCountReg u rel) s = o ∧ exec (.doUntil term rel) s = o
      let forbidden : Prop :=
        rel.toInt ≤ 0 ∨ ∃ e ∈ s.loops, e.endAddr = s.pc + rel ∨
          e.endAddr = s.pc ∨ e.endAddr = s.pc + 1#24 ∨ e.endAddr = s.pc + 2#24
      (forbidden → all (.refused .loopEnd)) ∧
      (¬ forbidden →
        (s.pcStack.length < s.params.pcDepth → s.loops.length < s.params.loopDepth →
          exec (.doCountImm count rel) s = .next (after (count.setWidth 32) .lce) ∧
          exec (.doCountReg u rel) s = .next (after (v.extractLsb' 32 32) .lce) ∧
          exec (.doUntil term rel) s = .next (after s.lcntr term)) ∧
        (s.params.pcDepth ≤ s.pcStack.length → all (.fault (.stackOverflow .pc))) ∧
        (s.pcStack.length < s.params.pcDepth → s.params.loopDepth ≤ s.loops.length →
          all (.fault (.stackOverflow .loop)))))

/-- R170 to R174: what each condition of an IF reads. EQ, AC, AV, MV, MS, SV, SZ and TF read AZ, AC, AV, MV, MN, SV, SZ and
BTF, on PEx from ASTATx and in SIMD mode on PEy from ASTATy; LT and LE are R172's formulas of AN, AV, AF, AZ and ALUSAT;
the flag inputs and the bus master state are the same on both elements, from the environment (D41), a flag pin that is
an output from FLAGS (log entry 23); NOT LCE says that CURLCNTR is not 1 and is refused with no loop (U19); TRUE holds;
each but these two has its complement. The places of the flags are log entry 9. After a compare of two registers the six
comparisons say how they compare: as signed integers after COMP of fixed-point (R366), and as real numbers after COMP of
floating-point operands that are Normal or Zero (R410), in either saturation mode. -/
def Obligations.Conditions : Prop :=
  (∀ s : State,
    let tells (cond : Cond) (x y : Bool) : Prop := evalCond s cond = .ok ⟨x, s.simd && y⟩
    let reads (cond cond' : Cond) (f : Word → Bool) : Prop :=
      tells cond (f s.x.astat) (f s.y.astat) ∧ tells cond' (!f s.x.astat) (!f s.y.astat)
    let common (cond cond' : Cond) (b : Bool) : Prop := tells cond b b ∧ tells cond' (!b) (!b)
    let ltCore (a : Word) : Bool :=
      !a.getLsbD 10 && (a.getLsbD 2 != (a.getLsbD 1 && !s.mode1.getLsbD 13)) ||
        a.getLsbD 10 && a.getLsbD 2 && !a.getLsbD 0
    let leCore (a : Word) : Bool :=
      !a.getLsbD 10 && (a.getLsbD 2 != (a.getLsbD 1 && !s.mode1.getLsbD 13)) ||
        a.getLsbD 10 && a.getLsbD 2 || a.getLsbD 0
    (∀ c ∈ [(Cond.eq, Cond.ne, 0), (.av, .notAv, 1), (.ac, .notAc, 3), (.ms, .notMs, 6), (.mv, .notMv, 7),
      (.sv, .notSv, 11), (.sz, .notSz, 12), (.tf, .notTf, 18)], reads c.1 c.2.1 fun a => a.getLsbD c.2.2) ∧
    reads .lt .ge ltCore ∧ reads .le .gt leCore ∧
    (∀ n : Fin 4, ∃ pin : Bool, common (.flag n) (.notFlag n) pin ∧
      (s.flags.getLsbD (16 + n.val) = true → pin = s.flags.getLsbD n.val)) ∧
    (∃ master : Bool, common .bm .notBm master) ∧ tells .always true true ∧
    (s.loops = [] → evalCond s .lce = refuse .emptyStackRegister) ∧
    ∀ e rest, s.loops = e :: rest → tells .lce (decide (e.count ≠ 1#32)) (decide (e.count ≠ 1#32))) ∧
  ∀ (s t : State) (rx ry : RegNum),
    let orders (u v : Pe → ℚ) : Prop :=
      let answers (cond : Cond) (r : ℚ → ℚ → Prop) : Prop :=
        ∃ p, evalCond t cond = .ok p ∧ (p.cx = true ↔ r (u s.x) (v s.x)) ∧
          (p.cy = true ↔ s.simd = true ∧ r (u s.y) (v s.y))
      answers .eq (fun a b => a = b) ∧ answers .ne (fun a b => a ≠ b) ∧ answers .lt (fun a b => a < b) ∧
        answers .le (fun a b => a ≤ b) ∧ answers .gt (fun a b => a > b) ∧ answers .ge (fun a b => a ≥ b)
    let number (v : DataWord) : Prop := fclass v = .normal ∨ fclass v = .zero
    (exec (.compFix rx ry) s = .next t → orders (fun q => (q.fx rx).toInt) (fun q => (q.fx ry).toInt)) ∧
    (number s.x.rf[rx] → number s.x.rf[ry] → (s.simd = true → number s.y.rf[rx] ∧ number s.y.rf[ry]) →
      exec (.compFlt rx ry) s = .next t → orders (fun q => floatValue q.rf[rx]) (fun q => floatValue q.rf[ry]))

/-! ### Miscellaneous (43_misc.md, 42_immediate_move.md, 60_exceptions.md) -/

/-- R331 to R335: BIT SET, CLR and TGL change a system register by a mask, in SIMD mode also its complement where it has
one (a register without one is changed once); what forbids the write of the new value refuses the instruction. BIT TST
sets BTF exactly when every bit of the data is set in the register, BIT XOR exactly when the register is the data: BTF
of ASTATx, in SIMD mode also of ASTATy from the register PEy sees; nothing else changes. That a failed test clears BTF
is D46, the place of BTF log entry 9. -/
def Obligations.BitInstructions : Prop :=
  ∀ (s : State) (reg : SReg) (data : Word),
    let changes (i : Instr) (f : Word → Word) : Prop :=
      (s.writeRefusal (.sys reg) (bus32 (f (s.readSReg reg))) = none →
        exec i s = .next
          (if s.simd && hasComplement (.sys reg) then
            (s.writeSReg reg (f (s.readSReg reg))).writeSReg (complementSReg reg) (f (s.readSReg (complementSReg reg)))
          else s.writeSReg reg (f (s.readSReg reg)))) ∧
      ∀ why, s.writeRefusal (.sys reg) (bus32 (f (s.readSReg reg))) = some why → exec i s = .refused why
    let tested (f : Word → Bool) : State :=
      { s with
        x := { s.x with astat := setBit s.x.astat 18 (f (s.readSReg reg)) }
        y := if s.simd then { s.y with astat := setBit s.y.astat 18 (f (s.readSReg (complementSReg reg))) } else s.y }
    changes (.bitSet reg data) (fun v => v ||| data) ∧ changes (.bitClr reg data) (fun v => v &&& ~~~data) ∧
      changes (.bitTgl reg data) (fun v => v ^^^ data) ∧
      exec (.bitTst reg data) s = .next (tested fun v => decide (v &&& data = data)) ∧
      exec (.bitXor reg data) s = .next (tested fun v => decide (v = data))

/-- R338 to R345, R264: the Type 20 instructions: each push and pop the word asks for, and FLUSH CACHE, which empties
the stale set. A stack that cannot take its push or pop faults, in words that ask for several too: of more than one the
loop stack is named first, then the status stack, then the PC stack. The entry that PUSH PCSTK pushes and the counter
that PUSH LOOP pushes are free values (`d`, `n`); LADDR of PUSH LOOP is 0. The order in which the faults are named is
the model's choice (log entry 14): R338 says that the order does not matter. That a status push clears the MMASK bits of
MODE1 is the spec's general knowledge in R57 and R341 and its decision D11 (log entry 24). What made each entry is the
model's own note (log entry 29). -/
def Obligations.StackInstructions : Prop :=
  ∀ (s : State) (a b fl : Bool), ∃ (d : ProgAddr) (n : Word),
    let depth := s.pcStack.length
    let roomPc := depth < s.params.pcDepth
    let roomLoop := s.loops.length < s.params.loopDepth
    let roomSts := s.sts.length < s.params.stsDepth
    let pushed (loop sts pc : Bool) : State :=
      { s with
        loops := if loop then ⟨0#32, n, none⟩ :: s.loops else s.loops
        sts := if sts then ⟨s.mode1, s.x.astat, s.y.astat⟩ :: s.sts else s.sts
        mode1 := if sts && s.params.irq.mmaskApplies then s.mode1 &&& ~~~s.mmask else s.mode1
        pcStack := if pc then ⟨d, .software⟩ :: s.pcStack else s.pcStack
        stale := if fl then [] else s.stale }
    let popped (loop pc : Bool) (sts : List StatusEntry) (e : StatusEntry) : State :=
      { s with
        loops := if loop then s.loops.tail else s.loops
        sts := sts
        mode1 := e.mode1
        x := { s.x with astat := e.astatx }
        y := { s.y with astat := e.astaty }
        pcStack := if pc then s.pcStack.tail else s.pcStack
        stale := if fl then [] else s.stale }
    let kept : StatusEntry := ⟨s.mode1, s.x.astat, s.y.astat⟩
    (roomPc → exec (.pushPcstk fl) s = .next (pushed false false true)) ∧
    (¬ roomPc → exec (.pushPcstk fl) s = .fault (.stackOverflow .pc)) ∧
    (roomLoop → (a = true → roomSts) → (b = true → roomPc) → exec (.pushLoop a b fl) s = .next (pushed true a b)) ∧
    (¬ roomLoop → exec (.pushLoop a b fl) s = .fault (.stackOverflow .loop)) ∧
    (roomLoop → a = true → ¬ roomSts → exec (.pushLoop a b fl) s = .fault (.stackOverflow .status)) ∧
    (roomLoop → (a = true → roomSts) → b = true → ¬ roomPc →
      exec (.pushLoop a b fl) s = .fault (.stackOverflow .pc)) ∧
    (roomSts → (b = true → roomPc) → exec (.pushSts b fl) s = .next (pushed false true b)) ∧
    (¬ roomSts → exec (.pushSts b fl) s = .fault (.stackOverflow .status)) ∧
    (roomSts → b = true → ¬ roomPc → exec (.pushSts b fl) s = .fault (.stackOverflow .pc)) ∧
    (s.pcStack ≠ [] → exec (.popPcstk fl) s = .next (popped false true s.sts kept)) ∧
    (s.pcStack = [] → exec (.popPcstk fl) s = .fault (.stackUnderflow .pc)) ∧
    (s.loops ≠ [] → (b = true → s.pcStack ≠ []) →
      exec (.popLoop false b fl) s = .next (popped true b s.sts kept) ∧
      ∀ e more, s.sts = e :: more → exec (.popLoop true b fl) s = .next (popped true b more e)) ∧
    (s.loops = [] → exec (.popLoop a b fl) s = .fault (.stackUnderflow .loop)) ∧
    (s.loops ≠ [] → a = true → s.sts = [] → exec (.popLoop a b fl) s = .fault (.stackUnderflow .status)) ∧
    (s.loops ≠ [] → (a = true → s.sts ≠ []) → b = true → s.pcStack = [] →
      exec (.popLoop a b fl) s = .fault (.stackUnderflow .pc)) ∧
    ((b = true → s.pcStack ≠ []) →
      ∀ e more, s.sts = e :: more → exec (.popSts b fl) s = .next (popped false b more e)) ∧
    (s.sts = [] → exec (.popSts b fl) s = .fault (.stackUnderflow .status)) ∧
    (s.sts ≠ [] → b = true → s.pcStack = [] → exec (.popSts b fl) s = .fault (.stackUnderflow .pc))

/-- R347, R348: CJUMP puts I6 into R2, in SIMD mode also into S2, with 8 zero bits below, I7 into I6, and asks for a
delayed branch to its target, pushing nothing; in the relative form the target is PC plus the offset. -/
def Obligations.CompilerJumps : Prop :=
  ∀ (s : State) (addr : ProgAddr),
    let after (target : ProgAddr) : State :=
      { s with
        x := { s.x with rf := s.x.rf.set 2 (s.i[6] ++ 0#8) }
        y := if s.simd then { s.y with rf := s.y.rf.set 2 (s.i[6] ++ 0#8) } else s.y
        i := s.i.set 6 s.i[7]
        request := some ⟨target, true, false⟩ }
    exec (.cjumpAbs addr) s = .next (after addr) ∧ exec (.cjumpRel addr) s = .next (after (s.pc + addr))

/-- R178, R338, R343, R346, R349, R350, Table 5-1: NOP, the empty compute and a Type 20 word with no action change nothing;
FLUSH CACHE empties the stale set; IDLE enters the idle state. RFRAME puts I6 into I7 and the cell at I6 into I6; in SIMD
mode that is the cell at I6 or the next one, not said which (U24). -/
def Obligations.PlainInstructions : Prop :=
  ∀ s : State,
    let unframed (a : Word) : State := { s with i := (s.i.set 7 s.i[6]).set 6 (to32 (cellValue s a)) }
    exec .nop s = .next s ∧ exec .noCompute s = .next s ∧ exec .stackNone s = .next s ∧
      exec .flushCache s = .next { s with stale := [] } ∧ exec .idle s = .next { s with idle := true } ∧
      (plainCell s s.i[6] → s.simd = false → exec .rframe s = .next (unframed s.i[6])) ∧
      (plainCell s s.i[6] → plainCell s (s.i[6] + 1#32) → s.simd = true →
        exec .rframe s = .next (unframed s.i[6]) ∨ exec .rframe s = .next (unframed (s.i[6] + 1#32)))

/-- R575 with the parameter TimerModel set to one count a step: with TIMEN clear the timer holds; with it set TCOUNT
counts down, and the step after it reaches 0 reloads it from TPERIOD and latches TMZHI and TMZLI, bits 4 and 22. -/
def Obligations.TimerPeriod : Prop :=
  ∀ s : State, s.imaskp = 0#32 → s.params.timer = .steps →
    (s.mode2.getLsbD 5 = false → tickTimer s = s) ∧
    (s.mode2.getLsbD 5 = true →
      (∀ k, k ≤ s.tcount.toNat → tickTimer^[k] s = { s with tcount := s.tcount - BitVec.ofNat 32 k }) ∧
      tickTimer^[s.tcount.toNat + 1] s = { s with tcount := s.tperiod, irptl := s.irptl ||| 0x00400010#32 })
end

