-- ==== Sys2Proof/Laws/Memory.lean ====
section
/-! SUPPORT. Memory as a canonical list of bytes: reading after writing, and that every write keeps the form
(20_memory.md R103, R104; log entries 3 and 4). -/

namespace Sys2Proof.Machine

/-! ### Bytes -/

theorem Memory.read_eq_zero_of_lt (m : Memory) (k : Nat) (h : ∀ p ∈ m, k < p.1) : m.read k = 0#8 := by
  induction m with
  | nil => rfl
  | cons p rest ih =>
    have h1 : k ≠ p.1 := by have := h p (by simp); omega
    rw [Memory.read, if_neg h1]
    exact ih fun q hq => h q (by simp [hq])

theorem Memory.mem_write (m : Memory) (k : Nat) (v : BitVec 8) (p : Host.Cell) (h : p ∈ m.write k v) :
    p = (k, v) ∧ v ≠ 0#8 ∨ p ∈ m := by
  induction m with
  | nil =>
    rw [Memory.write] at h
    split at h
    · simp at h
    · simp only [List.mem_singleton] at h
      exact .inl ⟨h, ‹_›⟩
  | cons q rest ih =>
    rw [Memory.write] at h
    split at h
    · split at h
      · exact .inr h
      · rcases List.mem_cons.mp h with rfl | h
        · exact .inl ⟨rfl, ‹_›⟩
        · exact .inr h
    · split at h
      · split at h
        · exact .inr (by simp [h])
        · rcases List.mem_cons.mp h with rfl | h
          · exact .inl ⟨rfl, ‹_›⟩
          · exact .inr (by simp [h])
      · rcases List.mem_cons.mp h with rfl | h
        · exact .inr (by simp)
        · rcases ih h with h | h
          · exact .inl h
          · exact .inr (by simp [h])

/-- A write keeps the canonical form. -/
theorem Memory.wf_write (m : Memory) (k : Nat) (v : BitVec 8) (h : m.wf) : (m.write k v).wf := by
  obtain ⟨hs, hz⟩ := h
  refine ⟨?_, fun p hp => ?_⟩
  · induction m with
    | nil => rw [Memory.write]; split <;> simp
    | cons q rest ih =>
      have hr := List.pairwise_cons.mp hs
      rw [Memory.write]
      split
      · split
        · exact hs
        · refine List.pairwise_cons.mpr ⟨fun p hp => ?_, hs⟩
          rcases List.mem_cons.mp hp with rfl | hp
          · assumption
          · exact lt_trans ‹_› (hr.1 p hp)
      · split
        · split
          · exact hr.2
          · refine List.pairwise_cons.mpr ⟨fun p hp => ?_, hr.2⟩
            have := hr.1 p hp
            simp_all
        · refine List.pairwise_cons.mpr ⟨fun p hp => ?_, ih hr.2 fun p hp => hz p (by simp [hp])⟩
          rcases Memory.mem_write _ _ _ _ hp with ⟨rfl, -⟩ | hp
          · show q.1 < k; omega
          · exact hr.1 p hp
  · rcases Memory.mem_write _ _ _ _ hp with ⟨rfl, h⟩ | hp
    · exact h
    · exact hz p hp

/-- What a read answers after a write: the written byte at its key, the old byte elsewhere. -/
theorem Memory.read_write (m : Memory) (k j : Nat) (v : BitVec 8) (h : m.wf) :
    (m.write k v).read j = if j = k then v else m.read j := by
  obtain ⟨hs, -⟩ := h
  induction m with
  | nil =>
    rw [Memory.write]
    split
    · simp_all [Memory.read]
    · simp [Memory.read]
  | cons q rest ih =>
    obtain ⟨k', v'⟩ := q
    have hr := List.pairwise_cons.mp hs
    have low : ∀ i, i ≤ k' → Memory.read rest i = 0#8 := fun i hi =>
      Memory.read_eq_zero_of_lt rest i fun p hp => lt_of_le_of_lt hi (hr.1 p hp)
    rw [Memory.write]
    by_cases h1 : k < k'
    · simp only [h1, if_true]
      by_cases hv : v = 0#8
      · simp only [hv, if_true, Memory.read]
        by_cases hj : j = k
        · subst hj
          simp [show j ≠ k' by omega, low j (by omega)]
        · simp [hj]
      · simp [hv, Memory.read]
    · simp only [h1, if_false]
      by_cases h2 : k = k'
      · subst h2
        simp only [if_true]
        by_cases hv : v = 0#8
        · simp only [hv, if_true, Memory.read]
          by_cases hj : j = k
          · subst hj; simp [low j le_rfl]
          · simp [hj]
        · simp only [hv, if_false, Memory.read]
          by_cases hj : j = k <;> simp [hj]
      · simp only [h2, if_false, Memory.read]
        by_cases hj : j = k'
        · subst hj; simp [show j ≠ k by omega]
        · simp [hj, ih hr.2]

/-! ### Cells -/

/-- The keys of two cells, or of two lanes, differ. -/
theorem cellKey_inj {a c : Word} {i j : Nat} (hi : i < 8) (hj : j < 8) (h : cellKey a i = cellKey c j) :
    a = c ∧ i = j := by
  unfold cellKey at h
  have : a.toNat = c.toNat := by omega
  exact ⟨BitVec.eq_of_toNat_eq this, by omega⟩

/-- A cell written lane by lane, for a list of lanes. -/
def Memory.writeLanes (m : Memory) (a : Word) (v : BusWord) (ls : List Nat) : Memory :=
  ls.foldl (fun m lane => m.write (cellKey a lane) (busByte v lane)) m

theorem Memory.writeCell_eq (m : Memory) (a : Word) (lanes : Nat) (v : BusWord) :
    m.writeCell a lanes v = m.writeLanes a v (List.range lanes) := rfl

theorem Memory.wf_writeLanes (m : Memory) (a : Word) (v : BusWord) (ls : List Nat) (h : m.wf) :
    (m.writeLanes a v ls).wf := by
  induction ls generalizing m with
  | nil => exact h
  | cons l ls ih => exact ih _ (Memory.wf_write _ _ _ h)

theorem Memory.read_writeLanes (m : Memory) (a : Word) (v : BusWord) (ls : List Nat) (h : m.wf) (k : Nat) :
    (m.writeLanes a v ls).read k = if ∃ l ∈ ls, k = cellKey a l then busByte v (k - 8 * a.toNat) else m.read k := by
  induction ls generalizing m with
  | nil => simp [Memory.writeLanes]
  | cons l ls ih =>
    have step : m.writeLanes a v (l :: ls) = (m.write (cellKey a l) (busByte v l)).writeLanes a v ls := rfl
    rw [step, ih _ (Memory.wf_write _ _ _ h), Memory.read_write _ _ _ _ h]
    by_cases h1 : ∃ x ∈ ls, k = cellKey a x
    · have h2 : ∃ x ∈ l :: ls, k = cellKey a x := by obtain ⟨x, hx, e⟩ := h1; exact ⟨x, by simp [hx], e⟩
      rw [if_pos h1, if_pos h2]
    · by_cases h3 : k = cellKey a l
      · rw [if_neg h1, if_pos h3, if_pos ⟨l, by simp, h3⟩]
        rw [h3]; unfold cellKey; congr 1; omega
      · rw [if_neg h1, if_neg h3, if_neg]
        rintro ⟨x, hx, e⟩
        rcases List.mem_cons.mp hx with rfl | hx
        · exact h3 e
        · exact h1 ⟨x, hx, e⟩

/-- A store of a cell keeps the canonical form. -/
theorem Memory.wf_writeCell (m : Memory) (a : Word) (lanes : Nat) (v : BusWord) (h : m.wf) :
    (m.writeCell a lanes v).wf := Memory.wf_writeLanes _ _ _ _ h

/-- A store of a cell leaves every byte of every other cell. -/
theorem Memory.read_writeCell_other (m : Memory) (a c : Word) (lanes lane : Nat) (v : BusWord) (h : m.wf)
    (hl : lane < 8) (hn : lanes ≤ 8) (hc : c ≠ a) :
    (m.writeCell a lanes v).read (cellKey c lane) = m.read (cellKey c lane) := by
  rw [Memory.writeCell_eq, Memory.read_writeLanes _ _ _ _ h, if_neg]
  rintro ⟨x, hx, e⟩
  have hx8 : x < 8 := by have := List.mem_range.mp hx; omega
  exact hc (cellKey_inj hl hx8 e).1

/-- A store of a cell puts each byte of the value in its lane. -/
theorem Memory.read_writeCell_same (m : Memory) (a : Word) (lanes lane : Nat) (v : BusWord) (h : m.wf)
    (hl : lane < lanes) : (m.writeCell a lanes v).read (cellKey a lane) = busByte v lane := by
  rw [Memory.writeCell_eq, Memory.read_writeLanes _ _ _ _ h, if_pos ⟨lane, by simpa using hl, rfl⟩]
  unfold cellKey; congr 1; omega

/-- A store of a cell leaves the lanes above the stored ones. -/
theorem Memory.read_writeCell_above (m : Memory) (a : Word) (lanes lane : Nat) (v : BusWord) (h : m.wf)
    (hl : lanes ≤ lane) (h8 : lane < 8) :
    (m.writeCell a lanes v).read (cellKey a lane) = m.read (cellKey a lane) := by
  rw [Memory.writeCell_eq, Memory.read_writeLanes _ _ _ _ h, if_neg]
  rintro ⟨x, hx, e⟩
  have hx := List.mem_range.mp hx
  have := (cellKey_inj h8 (by omega) e).2
  omega

theorem getLsbD_busOfByte (v : BusWord) (lane i : Nat) (hl : lane < 8) :
    (busOfByte (busByte v lane) lane).getLsbD i =
      (decide (56 - 8 * lane ≤ i ∧ i < 64 - 8 * lane) && v.getLsbD i) := by
  unfold busOfByte busByte
  simp only [BitVec.getLsbD_shiftLeft, BitVec.getLsbD_setWidth, BitVec.getLsbD_extractLsb']
  by_cases h1 : i < 56 - 8 * lane
  · have : ¬ (56 - 8 * lane ≤ i ∧ i < 64 - 8 * lane) := by omega
    rw [decide_eq_false this]
    simp [h1]
  · by_cases h2 : i < 64 - 8 * lane
    · have e : 56 - 8 * lane + (i - (56 - 8 * lane)) = i := by omega
      have a1 : 56 - 8 * lane ≤ i ∧ i < 64 - 8 * lane := by omega
      have a2 : i - (56 - 8 * lane) < 8 := by omega
      have a3 : i < 64 := by omega
      simp [h1, a1, a2, a3, e, show i - (56 - 8 * lane) < 64 by omega]
    · have a1 : ¬ (56 - 8 * lane ≤ i ∧ i < 64 - 8 * lane) := by omega
      have a2 : ¬ (i - (56 - 8 * lane) < 8) := by omega
      rw [decide_eq_false a1]
      simp [a2]

/-- A cell loaded after a store of as many bytes: the stored bytes, zeros below. -/
theorem Memory.readCell_writeCell (m : Memory) (a : Word) (lanes : Nat) (v : BusWord) (h : m.wf) (hn : lanes ≤ 8) :
    (m.writeCell a lanes v).readCell a lanes = v &&& BitVec.allOnes 64 <<< (64 - 8 * lanes) := by
  have hb : ∀ l ∈ List.range lanes, (m.writeCell a lanes v).read (cellKey a l) = busByte v l := fun l hl =>
    Memory.read_writeCell_same _ _ _ _ _ h (by simpa using hl)
  have gen : ∀ (n : Nat) (_ : n ≤ 8) (f : Nat → BitVec 8), (∀ l ∈ List.range n, f l = busByte v l) →
      (List.range n).foldl (fun v lane => v ||| busOfByte (f lane) lane) 0#64 =
        v &&& BitVec.allOnes 64 <<< (64 - 8 * n) := by
    intro n
    induction n with
    | zero => intro _ f _; ext i; simp
    | succ n ih =>
      intro hn f hf
      rw [List.range_succ, List.foldl_append, ih (by omega) f fun l hl => hf l (by simp at hl ⊢; omega)]
      simp only [List.foldl_cons, List.foldl_nil]
      rw [hf n (by simp)]
      ext i hi
      simp only [← BitVec.getLsbD_eq_getElem, BitVec.getLsbD_or, BitVec.getLsbD_and, getLsbD_busOfByte v n i (by omega),
        BitVec.getLsbD_shiftLeft, BitVec.getLsbD_allOnes]
      by_cases c1 : i < 64 - 8 * (n + 1)
      · have : ¬ (56 - 8 * n ≤ i ∧ i < 64 - 8 * n) := by omega
        rw [decide_eq_false this]
        simp [show i < 64 - 8 * n by omega, c1]
      · by_cases c2 : i < 64 - 8 * n
        · have : (56 - 8 * n ≤ i ∧ i < 64 - 8 * n) := by omega
          simp [c1, c2, this, hi, show i - (64 - 8 * (n + 1)) < 64 by omega]
        · have : ¬ (56 - 8 * n ≤ i ∧ i < 64 - 8 * n) := by omega
          rw [decide_eq_false this]
          simp [c1, c2, hi, show i - (64 - 8 * (n + 1)) < 64 by omega, show i - (64 - 8 * n) < 64 by omega]
  exact gen lanes hn _ hb
/-- A load of a cell depends on the bytes of its lanes alone. -/
theorem Memory.readCell_congr (m m' : Memory) (a : Word) (lanes : Nat)
    (h : ∀ lane, lane < lanes → m.read (cellKey a lane) = m'.read (cellKey a lane)) :
    m.readCell a lanes = m'.readCell a lanes := by
  unfold Memory.readCell
  have : ∀ (ls : List Nat) (acc : BusWord), (∀ l ∈ ls, l < lanes) →
      ls.foldl (fun v lane => v ||| busOfByte (m.read (cellKey a lane)) lane) acc =
      ls.foldl (fun v lane => v ||| busOfByte (m'.read (cellKey a lane)) lane) acc := by
    intro ls
    induction ls with
    | nil => intros; rfl
    | cons l ls ih =>
      intro acc hb
      simp only [List.foldl_cons]
      rw [h l (hb l (by simp))]
      exact ih _ fun x hx => hb x (by simp [hx])
  exact this _ _ fun l hl => by simpa using hl

end Sys2Proof.Machine
end

