-- ==== Sys2Proof/Laws/Ops.lean ====
section
/-! SUPPORT. One lemma for each shared operation that says what it can do, so that proofs cite it and do not unfold the
operation. -/

namespace Sys2Proof.Machine

/-! ### Answers -/

theorem Run.outcome_eq_next (r : Run State) (t : State) : r.outcome = .next t ↔ r = .ok t := by
  unfold Run.outcome
  split <;> simp

theorem Run.outcome_ok (t : State) : Run.outcome (.ok t) = .next t := rfl

theorem Run.bind_eq_ok {α β : Type} (r : Run α) (f : α → Run β) (v : β) :
    (r >>= f) = .ok v ↔ ∃ a, r = .ok a ∧ f a = .ok v := by
  cases r with
  | error e => simp [bind, Except.bind]
  | ok a => simp [bind, Except.bind]

theorem Run.ok_bind {α β : Type} (a : α) (f : α → Run β) : ((.ok a : Run α) >>= f) = f a := rfl

theorem Run.pure_eq_ok {α : Type} (a : α) : (pure a : Run α) = .ok a := rfl

theorem refuse_ne_ok {α : Type} (why : Refusal) (a : α) : (refuse why : Run α) ≠ .ok a := by
  simp [refuse]

/-! ### Values on the bus (10_state.md R34) -/

@[simp] theorem to32_bus32 (v : Word) : to32 (bus32 v) = v := by
  unfold to32 bus32
  exact BitVec.extractLsb'_append_eq_left

@[simp] theorem to40_bus40 (v : DataWord) : to40 (bus40 v) = v := by
  unfold to40 bus40
  exact BitVec.extractLsb'_append_eq_left

@[simp] theorem to24_bus24 (v : ProgAddr) : to24 (bus24 v) = v := by
  unfold to24 bus24 bus32
  rw [BitVec.extractLsb'_append_eq_of_le (by omega)]
  exact BitVec.extractLsb'_append_eq_right

/-- A 32-bit value in a 40-bit register has 8 zero bits below. -/
@[simp] theorem to40_bus32 (v : Word) : to40 (bus32 v) = v ++ 0#8 := by
  unfold to40 bus32
  ext i hi
  rw [BitVec.getElem_extractLsb', BitVec.getLsbD_append, BitVec.getElem_append]
  by_cases h : i < 8
  · rw [if_pos (by omega), dif_pos h]; simp
  · rw [if_neg (by omega), dif_neg h, show 24 + i - 32 = i - 8 by omega, BitVec.getLsbD_eq_getElem]

/-- A register write that nothing forbids. -/
theorem regWrite_ok {s : State} {u : UReg} {v : BusWord} (h : s.writeRefusal u v = none) :
    regWrite s u v = .ok [.reg u v] := by
  unfold regWrite
  rw [h]

/-! ### The writes of one instruction (20_memory.md R125) -/

/-- `commit` answers exactly when no place is written twice, with all writes made. -/
theorem commit_eq_ok (s t : State) (ws : List Write) :
    commit s ws = .ok t ↔ (ws.flatMap Write.places).Nodup ∧ t = ws.foldl Write.apply s := by
  unfold commit
  split
  · rename_i h
    constructor
    · intro e; exact ⟨h, by simpa using e.symm⟩
    · rintro ⟨-, rfl⟩; rfl
  · rename_i h
    simp [refuse, h]

theorem commit_of_nodup (s : State) (ws : List Write) (h : (ws.flatMap Write.places).Nodup) :
    commit s ws = .ok (ws.foldl Write.apply s) := by
  unfold commit; rw [if_pos h]

theorem commit_nil (s : State) : commit s [] = .ok s := rfl

/-- What no write of an instruction changes: PC, the parameters, the status stack, the interrupt bookkeeping and the
sequencer's hidden state. -/
def SameCore (s t : State) : Prop :=
  t.params = s.params ∧ t.pc = s.pc ∧ t.sts = s.sts ∧ t.dbr = s.dbr ∧ t.idle = s.idle ∧ t.request = s.request ∧
    t.mode1Changed = s.mode1Changed ∧ t.history = s.history ∧ t.straight = s.straight ∧ t.irqWait = s.irqWait ∧
    t.clock = s.clock ∧ t.pcStack.map PcEntry.source = s.pcStack.map PcEntry.source ∧ t.loops.length = s.loops.length

theorem SameCore.refl (s : State) : SameCore s s := by
  unfold SameCore; simp

theorem SameCore.trans {s t u : State} (h : SameCore s t) (g : SameCore t u) : SameCore s u := by
  unfold SameCore at *; simp_all

theorem writeSReg_sameCore (s : State) (r : SReg) (v : Word) : SameCore s (s.writeSReg r v) := by
  cases r <;> simp [SameCore, State.writeSReg]

theorem writeUReg_sameCore (s : State) (u : UReg) (v : BusWord) : SameCore s (s.writeUReg u v) := by
  cases u with
  | sys r => exact writeSReg_sameCore s r _
  | pcstk => cases h : s.pcStack <;> simp [SameCore, State.writeUReg, h]
  | laddr => cases h : s.loops <;> simp [SameCore, State.writeUReg, h]
  | curlcntr => cases h : s.loops <;> simp [SameCore, State.writeUReg, h]
  | _ => simp [SameCore, State.writeUReg]

theorem apply_sameCore (s : State) (w : Write) : SameCore s (w.apply s) := by
  cases w with
  | reg u v => exact writeUReg_sameCore s u v
  | cell a lanes v => simp [SameCore, Write.apply]
  | device a => exact SameCore.refl s
  | unit e r => cases e <;> simp [SameCore, Write.apply, State.withPe]
  | overflow k => simp [SameCore, Write.apply]

theorem foldl_sameCore (s : State) (ws : List Write) : SameCore s (ws.foldl Write.apply s) := by
  induction ws generalizing s with
  | nil => exact SameCore.refl s
  | cons w ws ih => exact (apply_sameCore s w).trans (ih _)

theorem commit_sameCore {s t : State} {ws : List Write} (h : commit s ws = .ok t) : SameCore s t := by
  obtain ⟨-, rfl⟩ := (commit_eq_ok s t ws).mp h
  exact foldl_sameCore s ws

/-! ### Stacks (41_program_flow.md R264) -/

theorem pushPc_eq_ok (s t : State) (source : PcSource) (a : ProgAddr) :
    pushPc s source a = .ok t ↔
      s.pcStack.length < s.params.pcDepth ∧ t = { s with pcStack := ⟨a, source⟩ :: s.pcStack } := by
  unfold pushPc
  split <;> simp_all [eq_comm]

theorem popPc_eq_ok (s t : State) (a : ProgAddr) :
    popPc s = .ok (a, t) ↔ ∃ p rest, s.pcStack = p :: rest ∧ p.addr = a ∧ t = { s with pcStack := rest } := by
  unfold popPc
  split <;> simp_all [eq_comm]

theorem pushLoop_eq_ok (s t : State) (e : LoopEntry) :
    pushLoop s e = .ok t ↔ s.loops.length < s.params.loopDepth ∧ t = { s with loops := e :: s.loops } := by
  unfold pushLoop
  split <;> simp_all [eq_comm]

theorem popLoop_eq_ok (s t : State) :
    popLoop s = .ok t ↔ ∃ e rest, s.loops = e :: rest ∧ t = { s with loops := rest } := by
  unfold popLoop
  split <;> simp_all [eq_comm]

theorem pushSts_eq_ok (s t : State) :
    pushSts s = .ok t ↔
      s.sts.length < s.params.stsDepth ∧
        t = { s with sts := ⟨s.mode1, s.x.astat, s.y.astat⟩ :: s.sts, mode1 := maskedMode1 s } := by
  unfold pushSts
  split <;> simp_all [eq_comm]

theorem popSts_eq_ok (s t : State) :
    popSts s = .ok t ↔
      ∃ e rest, s.sts = e :: rest ∧
        t = { s with
          sts := rest
          mode1 := e.mode1
          x := { s.x with astat := e.astatx }
          y := { s.y with astat := e.astaty } } := by
  unfold popSts
  split <;> simp_all [eq_comm]

/-- (LA): one entry of the loop stacks and one of the PC stack go (R265). -/
theorem abortLoop_eq_ok (s t : State) :
    abortLoop s = .ok t ↔
      ∃ e rest p more, s.loops = e :: rest ∧ s.pcStack = p :: more ∧ t = { s with loops := rest, pcStack := more } := by
  unfold abortLoop
  simp only [Run.bind_eq_ok, popLoop_eq_ok, Prod.exists, popPc_eq_ok, Run.pure_eq_ok, Except.ok.injEq]
  constructor
  · rintro ⟨u, ⟨e, rest, h1, rfl⟩, a, w, ⟨p, more, h2, rfl, rfl⟩, rfl⟩
    exact ⟨e, rest, p, more, h1, h2, rfl⟩
  · rintro ⟨e, rest, p, more, h1, h2, rfl⟩
    exact ⟨_, ⟨e, rest, h1, rfl⟩, p.addr, _, ⟨p, more, h2, rfl, rfl⟩, rfl⟩

theorem whenSet_true (act : State → Run State) (s : State) : whenSet true act s = act s := rfl

theorem whenSet_false (act : State → Run State) (s : State) : whenSet false act s = .ok s := rfl

/-! ### Conditions (30_encoding.md R173, R174) -/

/-- A condition has a value except NOT LCE with no loop (U19). -/
theorem evalCond_ok (s : State) (c : Cond) (h : c ≠ .lce ∨ s.loops ≠ []) : ∃ p, evalCond s c = .ok p := by
  unfold evalCond
  split
  · simp_all
  · exact ⟨_, rfl⟩

theorem evalCond_always (s : State) : evalCond s .always = .ok (allElements s) := by
  unfold evalCond allElements
  cases s.loops <;> simp [condHolds]

/-- In SISD mode no instruction runs on PEy (R220). -/
theorem evalCond_sisd {s : State} {c : Cond} {p : CondPair} (h : evalCond s c = .ok p) (hs : s.simd = false) :
    p.cy = false := by
  unfold evalCond at h
  split at h
  · simp [refuse] at h
  · simp only [Except.ok.injEq] at h
    subst h
    simp [hs]

/-! ### Interrupts (60_exceptions.md R562) -/

/-- Taking an interrupt: what it pushes and where it goes. -/
theorem takeInterrupt_eq_ok (s t : State) (k : Nat) (n : ProgAddr) :
    takeInterrupt s k n = .ok t ↔
      s.pcStack.length < s.params.pcDepth ∧
        (pushesStatus s k = true → s.sts.length < s.params.stsDepth) ∧
        t = { s with
          idle := false
          pcStack := ⟨n, .call⟩ :: s.pcStack
          sts := if pushesStatus s k then ⟨s.mode1, s.x.astat, s.y.astat⟩ :: s.sts else s.sts
          mode1 := if pushesStatus s k then maskedMode1 s else s.mode1
          imaskp := setBit s.imaskp k true
          pc := vectorOf s k
          straight := false } := by
  unfold takeInterrupt
  simp only [Run.bind_eq_ok, pushPc_eq_ok, Run.pure_eq_ok, Except.ok.injEq]
  cases hk : pushesStatus s k
  · constructor
    · rintro ⟨u, ⟨h1, rfl⟩, w, h2, rfl⟩
      change whenSet (pushesStatus s k) _ _ = _ at h2
      rw [hk, whenSet_false, Except.ok.injEq] at h2
      subst h2
      exact ⟨h1, by simp, by simp [vectorOf]⟩
    · rintro ⟨h1, -, rfl⟩
      refine ⟨_, ⟨h1, rfl⟩, { s with idle := false, pcStack := ⟨n, .call⟩ :: s.pcStack }, ?_, ?_⟩
      · change whenSet (pushesStatus s k) _ _ = _
        rw [hk, whenSet_false]
      · simp [vectorOf]
  · constructor
    · rintro ⟨u, ⟨h1, rfl⟩, w, h2, rfl⟩
      change whenSet (pushesStatus s k) _ _ = _ at h2
      rw [hk, whenSet_true, pushSts_eq_ok] at h2
      obtain ⟨h2, rfl⟩ := h2
      exact ⟨h1, fun _ => h2, by simp [maskedMode1, vectorOf]⟩
    · rintro ⟨h1, h2, rfl⟩
      refine ⟨_, ⟨h1, rfl⟩, { s with
          idle := false
          pcStack := ⟨n, .call⟩ :: s.pcStack
          sts := ⟨s.mode1, s.x.astat, s.y.astat⟩ :: s.sts
          mode1 := maskedMode1 s }, ?_, ?_⟩
      · change whenSet (pushesStatus s k) _ _ = _
        rw [hk, whenSet_true]; exact (pushSts_eq_ok _ _).mpr ⟨h2 rfl, rfl⟩
      · simp [maskedMode1, vectorOf]

end Sys2Proof.Machine
end

