-- ==== Sys2Proof/Laws/Accesses.lean ====
section
/-! SUPPORT. What the operations on cells, long words and registers can answer (20_memory.md R103 to R109, R121, R122;
40_compute_move.md R221). -/

namespace Sys2Proof.Machine

/-- A store that answers writes the cell at its address, or hands the write to a device. -/
theorem storeCell_eq_ok (s : State) (a : Word) (px : Bool) (v : BusWord) (ws : List Write) :
    storeCell s a px v = .ok ws ↔
      (s.region a = .device ∧ ws = [.device a]) ∨
        ((plainCell s a ∨ (s.region a = .word48 ∧ px = true)) ∧ ws = [.cell a (cellLanes s a) v]) := by
  unfold storeCell plainCell cellLanes
  cases s.region a <;> cases px <;> simp [refuse, eq_comm]

/-- A load that answers gives the cell's value, or a free one from a device. -/
theorem loadCell_eq_ok (s : State) (a : Word) (px : Bool) (v : BusWord) :
    loadCell s a px = .ok v ↔
      (s.region a = .device ∧ v = Config.freeWord (.device a) s.clock) ∨
        ((plainCell s a ∨ (s.region a = .word48 ∧ px = true)) ∧ v = cellValue s a) := by
  unfold loadCell plainCell cellValue cellLanes
  cases s.region a <;> cases px <;> simp [refuse, eq_comm]

/-- The writes of a store of a long word that answers. -/
theorem storeLong_eq_ok (s : State) (a : Word) (v : BusWord) (ws : List Write) :
    storeLong s a v = .ok ws ↔
      (s.region a = .device ∧ ws = [.device a]) ∨ (s.region a = .long ∧ ws = [.cell a 8 v]) ∨
        (s.region a = .word32 ∧ s.region (evenAddr a) = .word32 ∧ s.region (oddAddr a) = .word32 ∧
          ws = [.cell (evenAddr a) 4 (v <<< 32), .cell (oddAddr a) 4 v]) := by
  unfold storeLong
  cases s.region a <;> simp only [refuse, reduceCtorEq, Except.ok.injEq, false_and, false_or, or_false, true_and]
  all_goals first | exact eq_comm | skip
  by_cases h : s.region (evenAddr a) = .word32 ∧ s.region (oddAddr a) = .word32
  · rw [if_pos h, Except.ok.injEq]
    exact ⟨fun g => ⟨h.1, h.2, g.symm⟩, fun g => g.2.2.symm⟩
  · rw [if_neg h]
    exact ⟨fun g => by simp at g, fun g => absurd ⟨g.1, g.2.1⟩ h⟩

/-- The value of a load of a long word that answers. -/
theorem loadLong_eq_ok (s : State) (a : Word) (v : BusWord) :
    loadLong s a = .ok v ↔
      (s.region a = .device ∧ v = Config.freeWord (.device a) s.clock) ∨
        (s.region a = .long ∧ v = s.mem.readCell a 8) ∨
        (s.region a = .word32 ∧ s.region (evenAddr a) = .word32 ∧ s.region (oddAddr a) = .word32 ∧
          v = (s.mem.readCell (oddAddr a) 4 ||| s.mem.readCell (evenAddr a) 4 >>> 32)) := by
  unfold loadLong
  cases s.region a <;> simp only [refuse, reduceCtorEq, Except.ok.injEq, false_and, false_or, or_false, true_and]
  all_goals first | exact eq_comm | skip
  by_cases h : s.region (evenAddr a) = .word32 ∧ s.region (oddAddr a) = .word32
  · rw [if_pos h, Except.ok.injEq]
    exact ⟨fun g => ⟨h.1, h.2, g.symm⟩, fun g => g.2.2.symm⟩
  · rw [if_neg h]
    exact ⟨fun g => by simp at g, fun g => absurd ⟨g.1, g.2.1⟩ h⟩

/-- A register write that answers is that one write. -/
theorem regWrite_eq_ok (s : State) (u : UReg) (v : BusWord) (ws : List Write) :
    regWrite s u v = .ok ws ↔ s.writeRefusal u v = none ∧ ws = [.reg u v] := by
  unfold regWrite
  cases s.writeRefusal u v <;> simp [refuse, eq_comm]

/-- The store of a pair that answers, in the model with neighbour pairs. -/
theorem storePair_eq_ok (s : State) (a : Word) (u : UReg) (ws : List Write) :
    storePair s a u = .ok ws ↔
      s.params.longWord = .neighbourPair ∧
        ∃ lo hi l h, neighbours u = some (lo, hi) ∧ s.readUReg lo = .ok l ∧ s.readUReg hi = .ok h ∧
          storeLong s a (to32 h ++ to32 l) = .ok ws := by
  unfold storePair
  cases hl : s.params.longWord <;> rcases hn : neighbours u with _ | ⟨lo, hi⟩ <;> simp [refuse, Run.bind_eq_ok]

/-- The load of a pair that answers, in the model with neighbour pairs. -/
theorem loadPair_eq_ok (s : State) (a : Word) (u : UReg) (ws : List Write) :
    loadPair s a u = .ok ws ↔
      s.params.longWord = .neighbourPair ∧
        ∃ lo hi v, neighbours u = some (lo, hi) ∧ loadLong s a = .ok v ∧ s.writeRefusal lo (v <<< 32) = none ∧
          s.writeRefusal hi (bus32 (to32 v)) = none ∧ ws = [.reg lo (v <<< 32), .reg hi (bus32 (to32 v))] := by
  unfold loadPair
  cases hl : s.params.longWord <;> rcases hn : neighbours u with _ | ⟨lo, hi⟩ <;>
    simp only [refuse, Run.bind_eq_ok, regWrite_eq_ok, Run.pure_eq_ok, Except.ok.injEq, reduceCtorEq, false_and,
      false_iff, true_and, not_exists, Option.some.injEq, Prod.mk.injEq]
  · exact fun _ _ _ h => h
  constructor
  · rintro ⟨v, h1, _, ⟨h2, rfl⟩, _, ⟨h3, rfl⟩, rfl⟩
    exact ⟨lo, hi, v, ⟨rfl, rfl⟩, h1, h2, h3, rfl⟩
  · rintro ⟨_, _, v, ⟨rfl, rfl⟩, h1, h2, h3, rfl⟩
    exact ⟨v, h1, _, ⟨h2, rfl⟩, _, ⟨h3, rfl⟩, rfl⟩

/-- The store of a register that answers. -/
theorem storeReg_eq_ok (s : State) (lw : Bool) (a : Word) (u : UReg) (ws : List Write) :
    storeReg s lw a u = .ok ws ↔
      pxRefused s u = false ∧
        if isLong s lw a then storePair s a u = .ok ws
        else ∃ v, s.readUReg u = .ok v ∧ storeCell s a (decide (u = .px)) v = .ok ws := by
  unfold storeReg
  cases pxRefused s u <;> cases isLong s lw a <;> simp [refuse, Run.bind_eq_ok]

/-- The load of a register that answers. -/
theorem loadReg_eq_ok (s : State) (lw : Bool) (a : Word) (u : UReg) (ws : List Write) :
    loadReg s lw a u = .ok ws ↔
      pxRefused s u = false ∧
        if isLong s lw a then loadPair s a u = .ok ws
        else ∃ v, loadCell s a (decide (u = .px)) = .ok v ∧ s.writeRefusal u v = none ∧ ws = [.reg u v] := by
  unfold loadReg
  cases pxRefused s u <;> cases isLong s lw a <;> simp [refuse, Run.bind_eq_ok, regWrite_eq_ok]

/-- An operation made only when `go`. -/
theorem onlyIf_eq_ok (go : Bool) (r : Run (List Write)) (ws : List Write) :
    onlyIf go r = .ok ws ↔ if go then r = .ok ws else ws = [] := by
  unfold onlyIf
  cases go <;> simp [eq_comm]

/-- What `xfer` answers: one access where the register has no complement or the word is long, otherwise the two
elements' accesses in turn (R221). -/
theorem xfer_eq_ok (s : State) (lw : Bool) (ax : Word) (u : UReg) (store ex ey : Bool) (k : Option RegNum)
    (ws : List Write) :
    xfer s lw ax u store ex ey k = .ok ws ↔
      if madeOnce s lw ax u then
        (s.simd && ex != ey) = false ∧
          (if ex then (if store then storeReg s lw ax u else loadReg s lw ax u) = .ok ws else ws = [])
      else
        ∃ wx wy, ws = wx ++ wy ∧
          if store then
            onlyIf ex (storeReg s lw ax u) = .ok wx ∧
              onlyIf ey (storeReg s lw (yAddr false ax) (complement u)) = .ok wy
          else
            onlyIf ex (loadReg s lw ax u) = .ok wx ∧
              onlyIf (ey || (k.any (broadcast s) && !s.simd && ex))
                (loadReg s lw (yAddr (k.any (broadcast s)) ax) (complement u)) = .ok wy := by
  unfold xfer
  cases madeOnce s lw ax u
  · cases store <;>
      simp only [Bool.false_eq_true, if_false, if_true, Run.bind_eq_ok, Run.pure_eq_ok, Except.ok.injEq]
    · constructor
      · rintro ⟨wx, h1, wy, h2, rfl⟩
        exact ⟨wx, wy, rfl, h1, h2⟩
      · rintro ⟨wx, wy, rfl, h1, h2⟩
        exact ⟨wx, h1, wy, h2, rfl⟩
    · constructor
      · rintro ⟨wx, h1, wy, h2, rfl⟩
        exact ⟨wx, wy, rfl, h1, h2⟩
      · rintro ⟨wx, wy, rfl, h1, h2⟩
        exact ⟨wx, h1, wy, h2, rfl⟩
  · cases h : (s.simd && ex != ey)
    · simp only [if_true, Bool.false_eq_true, if_false, onlyIf_eq_ok, true_and]
    · simp [refuse]

/-- A register move that answers. -/
theorem moveReg_eq_ok (s : State) (dst src : UReg) (ws : List Write) :
    moveReg s dst src = .ok ws ↔
      ¬ (s.params.px = .absent ∧ (dst = .px ∨ src = .px) ∧ dst ≠ src) ∧
        ∃ v, s.readUReg src = .ok v ∧ s.writeRefusal dst v = none ∧ ws = [.reg dst v] := by
  unfold moveReg
  split
  · rename_i h
    simp only [refuse, reduceCtorEq, false_iff]
    exact fun g => g.1 h
  · rename_i h
    simp only [Run.bind_eq_ok, regWrite_eq_ok]
    exact ⟨fun g => ⟨h, g⟩, fun g => g.2⟩

end Sys2Proof.Machine
end

