-- ==== Sys2Proof/Laws/Compute.lean ====
section
/-! SUPPORT. What a compute writes, and when the writes of an instruction with a compute are made
(20_memory.md R125, 40_compute_move.md R220, 48_multifunction.md R530). -/

namespace Sys2Proof.Machine

/-! ### The registers of a result -/

/-- The data registers of a compute's result are those its operands name. -/
theorem evalCompute_regs (c : Compute) (env : Env) (p : Pe) :
    (evalCompute c env p).regs.map (fun w => w.1) = destRegs c := by
  cases c <;> rfl

theorem evalShiftImm_regs (sh : ShiftImm) (env : Env) (p : Pe) :
    (evalShiftImm sh env p).regs.map (fun w => w.1) = destRegsImm sh := by
  cases sh <;> rfl

theorem destRegsImm_nodup (sh : ShiftImm) : (destRegsImm sh).Nodup := by
  cases sh <;> simp [destRegsImm]

/-- The empty compute leaves an element as it is. -/
theorem apply_nop (env : Env) (p : Pe) : p.apply (evalCompute .nop env p) = p := by
  simp [evalCompute, Pe.apply, PeResult.none, PeResult.astat, PeResult.sticky]

/-! ### Places -/

/-- The places of a result: its data registers, one MR register, ASTAT, STKY, all of the element. -/
theorem mem_places {e : Element} {r : PeResult} {q : Place} (h : q ∈ r.places e) :
    (∃ n ∈ r.regs.map (fun w => w.1), q = .ureg (dregOf e n)) ∨ (∃ bank, q = .mr e bank) ∨
      q = .ureg (.sys (astatOf e)) ∨ q = .ureg (.sys (stkyOf e)) := by
  simp only [PeResult.places, List.mem_append, List.mem_map] at h
  rcases h with ((⟨w, hw, rfl⟩ | ⟨w, -, rfl⟩) | h) | h
  · exact .inl ⟨w.1, List.mem_map.mpr ⟨w, hw, rfl⟩, rfl⟩
  · exact .inr (.inl ⟨_, rfl⟩)
  · split at h
    · exact .inr (.inr (.inl (by simpa using h)))
    · simp at h
  · split at h
    · simp at h
    · exact .inr (.inr (.inr (by simpa using h)))

theorem dregOf_inj {e f : Element} {n k : RegNum} (h : dregOf e n = dregOf f k) : e = f ∧ n = k := by
  cases e <;> cases f <;> simp_all [dregOf]

/-- The places of a result are distinct when its data registers are. -/
theorem places_nodup (e : Element) (r : PeResult) (h : (r.regs.map (fun w => w.1)).Nodup) : (r.places e).Nodup := by
  have h1 : (r.regs.map (fun w => Place.ureg (dregOf e w.1))).Nodup := by
    have : (r.regs.map (fun w => w.1)).map (fun n => Place.ureg (dregOf e n)) =
        r.regs.map (fun w => Place.ureg (dregOf e w.1)) := by simp [Function.comp_def]
    rw [← this]
    exact h.map fun a c hac => (dregOf_inj (Place.ureg.inj hac)).2
  unfold PeResult.places
  refine List.Nodup.append (List.Nodup.append (List.Nodup.append h1 ?_ ?_) ?_ ?_) ?_ ?_
  · cases r.mr <;> simp
  · intro q hq hm
    simp only [List.mem_map] at hq hm
    obtain ⟨w, -, rfl⟩ := hq
    obtain ⟨v, -, hv⟩ := hm
    cases hv
  · split <;> simp
  · intro q hq ha
    split at ha
    · simp only [List.mem_singleton] at ha
      subst ha
      simp only [List.mem_append, List.mem_map] at hq
      rcases hq with ⟨w, -, hw⟩ | ⟨w, -, hw⟩ <;> cases e <;> simp [dregOf] at hw
    · simp at ha
  · split <;> simp
  · intro q hq ha
    split at ha
    · simp at ha
    · simp only [List.mem_singleton] at ha
      subst ha
      simp only [List.mem_append, List.mem_map] at hq
      rcases hq with (⟨w, -, hw⟩ | ⟨w, -, hw⟩) | hw
      · cases e <;> simp [dregOf] at hw
      · cases hw
      · split at hw <;> cases e <;> simp [stkyOf, astatOf] at hw

/-- The places of the two elements are apart. -/
theorem places_disjoint (r q : PeResult) : List.Disjoint (r.places .x) (q.places .y) := by
  intro w h1 h2
  rcases mem_places h1 with ⟨n, -, rfl⟩ | ⟨bank, rfl⟩ | rfl | rfl <;>
    rcases mem_places h2 with ⟨k, -, h⟩ | ⟨bank', h⟩ | h | h <;> simp [dregOf, astatOf, stkyOf] at h

/-! ### Making the writes -/

theorem apply_unit_x (s : State) (r : PeResult) : Write.apply s (.unit .x r) = { s with x := s.x.apply r } := rfl

theorem apply_unit_y (s : State) (r : PeResult) : Write.apply s (.unit .y r) = { s with y := s.y.apply r } := rfl

/-- The writes of a compute leave the state with the compute done. -/
theorem foldl_computeWrites (s : State) (c : Compute) (ex ey : Bool) :
    (computeWrites s c ex ey).foldl Write.apply s = computed s c ⟨ex, ey⟩ := by
  unfold computeWrites computed
  by_cases hc : c = .nop
  · subst hc
    simp [apply_nop]
  · rw [if_neg hc]
    cases ex <;> cases ey <;> simp [apply_unit_x, apply_unit_y]

theorem foldl_shiftImmWrites (s : State) (sh : ShiftImm) (ex ey : Bool) :
    (shiftImmWrites s sh ex ey).foldl Write.apply s = shifted s sh ⟨ex, ey⟩ := by
  unfold shiftImmWrites shifted
  cases ex <;> cases ey <;> simp [apply_unit_x, apply_unit_y]

/-- Where the writes of a compute go. -/
theorem mem_computePlaces {s : State} {c : Compute} {ex ey : Bool} {q : Place}
    (h : q ∈ (computeWrites s c ex ey).flatMap Write.places) :
    ∃ e : Element, (e = .x ∧ ex = true ∨ e = .y ∧ ey = true) ∧
      ((∃ n ∈ destRegs c, q = .ureg (dregOf e n)) ∨ (∃ bank, q = .mr e bank) ∨
        q = .ureg (.sys (astatOf e)) ∨ q = .ureg (.sys (stkyOf e))) := by
  unfold computeWrites at h
  split at h
  · simp at h
  · simp only [List.flatMap_append, List.mem_append] at h
    rcases h with h | h
    · cases hx : ex <;> simp [hx, Write.places] at h
      have := mem_places h
      rw [evalCompute_regs] at this
      exact ⟨.x, .inl ⟨rfl, rfl⟩, this⟩
    · cases hy : ey <;> simp [hy, Write.places] at h
      have := mem_places h
      rw [evalCompute_regs] at this
      exact ⟨.y, .inr ⟨rfl, rfl⟩, this⟩

theorem mem_shiftImmPlaces {s : State} {sh : ShiftImm} {ex ey : Bool} {q : Place}
    (h : q ∈ (shiftImmWrites s sh ex ey).flatMap Write.places) :
    ∃ e : Element, (e = .x ∧ ex = true ∨ e = .y ∧ ey = true) ∧
      ((∃ n ∈ destRegsImm sh, q = .ureg (dregOf e n)) ∨ (∃ bank, q = .mr e bank) ∨
        q = .ureg (.sys (astatOf e)) ∨ q = .ureg (.sys (stkyOf e))) := by
  unfold shiftImmWrites at h
  simp only [List.flatMap_append, List.mem_append] at h
  rcases h with h | h
  · cases hx : ex <;> simp [hx, Write.places] at h
    have := mem_places h
    rw [evalShiftImm_regs] at this
    exact ⟨.x, .inl ⟨rfl, rfl⟩, this⟩
  · cases hy : ey <;> simp [hy, Write.places] at h
    have := mem_places h
    rw [evalShiftImm_regs] at this
    exact ⟨.y, .inr ⟨rfl, rfl⟩, this⟩

/-- The writes of a compute are to distinct places when its result registers are distinct. -/
theorem computePlaces_nodup (s : State) (c : Compute) (ex ey : Bool) (h : (destRegs c).Nodup) :
    ((computeWrites s c ex ey).flatMap Write.places).Nodup := by
  unfold computeWrites
  split
  · simp
  · rw [List.flatMap_append]
    refine List.Nodup.append ?_ ?_ ?_
    · cases ex
      · simp
      · simp only [if_true, List.flatMap_cons, List.flatMap_nil, List.append_nil, Write.places]
        exact places_nodup _ _ (by rw [evalCompute_regs]; exact h)
    · cases ey
      · simp
      · simp only [if_true, List.flatMap_cons, List.flatMap_nil, List.append_nil, Write.places]
        exact places_nodup _ _ (by rw [evalCompute_regs]; exact h)
    · cases ex <;> cases ey <;> simp [Write.places, places_disjoint]

theorem shiftImmPlaces_nodup (s : State) (sh : ShiftImm) (ex ey : Bool) :
    ((shiftImmWrites s sh ex ey).flatMap Write.places).Nodup := by
  unfold shiftImmWrites
  rw [List.flatMap_append]
  refine List.Nodup.append ?_ ?_ ?_
  · cases ex
    · simp
    · simp only [if_true, List.flatMap_cons, List.flatMap_nil, List.append_nil, Write.places]
      exact places_nodup _ _ (by rw [evalShiftImm_regs]; exact destRegsImm_nodup sh)
  · cases ey
    · simp
    · simp only [if_true, List.flatMap_cons, List.flatMap_nil, List.append_nil, Write.places]
      exact places_nodup _ _ (by rw [evalShiftImm_regs]; exact destRegsImm_nodup sh)
  · cases ex <;> cases ey <;> simp [Write.places, places_disjoint]

/-- A compute and other writes, when no place is written twice: the compute is done, then the others are made. -/
theorem commit_compute (s : State) (c : Compute) (ex ey : Bool) (ws : List Write) (hc : (destRegs c).Nodup)
    (hw : (ws.flatMap Write.places).Nodup)
    (hd : List.Disjoint ((computeWrites s c ex ey).flatMap Write.places) (ws.flatMap Write.places)) :
    commit s (computeWrites s c ex ey ++ ws) = .ok (ws.foldl Write.apply (computed s c ⟨ex, ey⟩)) := by
  rw [commit_of_nodup]
  · rw [List.foldl_append, foldl_computeWrites]
  · rw [List.flatMap_append]
    exact (computePlaces_nodup s c ex ey hc).append hw hd

theorem commit_shiftImm (s : State) (sh : ShiftImm) (ex ey : Bool) (ws : List Write)
    (hw : (ws.flatMap Write.places).Nodup)
    (hd : List.Disjoint ((shiftImmWrites s sh ex ey).flatMap Write.places) (ws.flatMap Write.places)) :
    commit s (shiftImmWrites s sh ex ey ++ ws) = .ok (ws.foldl Write.apply (shifted s sh ⟨ex, ey⟩)) := by
  rw [commit_of_nodup]
  · rw [List.foldl_append, foldl_shiftImmWrites]
  · rw [List.flatMap_append]
    exact (shiftImmPlaces_nodup s sh ex ey).append hw hd

/-- A compute with nothing beside it. -/
theorem commit_computeWrites (s : State) (c : Compute) (ex ey : Bool) (hc : (destRegs c).Nodup) :
    commit s (computeWrites s c ex ey) = .ok (computed s c ⟨ex, ey⟩) := by
  have := commit_compute s c ex ey [] hc (by simp) (by simp)
  simpa using this

/-- A compute alone: what its meaning leaves. -/
theorem runCompute_ok (s : State) (c : Compute) (hc : (destRegs c).Nodup) :
    runCompute s c = .ok (computed s c (allElements s)) :=
  commit_computeWrites s c true s.simd hc

/-- A compute that does the same to each element it runs on. -/
theorem computed_onElements {s : State} {c : Compute} {f : Pe → Pe}
    (h : ∀ e p, p.apply (evalCompute c (s.env e) p) = f p) : computed s c (allElements s) = onElements s f := by
  unfold computed onElements allElements
  simp only [if_true, h]

/-- An ALU result for a fixed-point register. -/
theorem apply_aluResult (p : Pe) (rn : RegNum) (out : Word) (fl : AluFlags) :
    p.apply (aluResult rn ⟨toFx out, fl⟩) = aluTo p rn out fl := by
  simp [Pe.apply, aluResult, aluTo, withAlu, PeResult.none, PeResult.astat, PeResult.sticky]

/-- A shifter result. -/
theorem apply_shiftResult (p : Pe) (rn : RegNum) (o : ShiftOut) :
    p.apply (shiftResult rn o) = shiftTo p rn o.out o.flags := by
  simp [Pe.apply, shiftResult, shiftTo, PeResult.none, PeResult.astat, PeResult.sticky]

/-- A compute that names one result register twice is refused where it runs (U4). -/
theorem commit_clash (s : State) (c : Compute) (ex ey : Bool) (ws : List Write) (hc : ¬ (destRegs c).Nodup)
    (hr : (ex || ey) = true) : commit s (computeWrites s c ex ey ++ ws) = refuse .doubleWrite := by
  unfold commit
  rw [if_neg]
  intro h
  rw [List.flatMap_append] at h
  have h := (List.nodup_append.mp h).1
  have hn : c ≠ .nop := by rintro rfl; exact hc (by simp [destRegs])
  have key : ∀ e p env, ((evalCompute c env p).places e).Nodup → (destRegs c).Nodup := by
    intro e p env hp
    unfold PeResult.places at hp
    have h1 := (List.nodup_append.mp (List.nodup_append.mp (List.nodup_append.mp hp).1).1).1
    rw [← evalCompute_regs c env p]
    have e2 : (evalCompute c env p).regs.map (fun w => Place.ureg (dregOf e w.1)) =
        ((evalCompute c env p).regs.map (fun w => w.1)).map (fun n => Place.ureg (dregOf e n)) := by
      simp [Function.comp_def]
    rw [e2] at h1
    exact h1.of_map
  unfold computeWrites at h
  rw [if_neg hn, List.flatMap_append] at h
  have hx := (List.nodup_append.mp h).1
  have hy := (List.nodup_append.mp h).2.1
  cases ex
  · cases ey
    · simp at hr
    · simp only [if_true, List.flatMap_cons, List.flatMap_nil, List.append_nil, Write.places] at hy
      exact hc (key _ _ _ hy)
  · simp only [if_true, List.flatMap_cons, List.flatMap_nil, List.append_nil, Write.places] at hx
    exact hc (key _ _ _ hx)

end Sys2Proof.Machine
end

