-- ==== Sys2Proof/Laws/Fields.lean ====
section
/-! SUPPORT. Reading a field of a word put together by `place`, and codes that read back (30_encoding.md). -/

namespace Sys2Proof

/-- A placed field reads back. -/
@[simp] theorem extract_place_same {W lo n : Nat} (v : BitVec n) (h : lo + n ≤ W) :
    (place W lo v).extractLsb' lo n = v := by
  ext i hi
  simp [place, hi, show lo + i < W by omega]

/-- A field apart from the placed one reads 0. -/
theorem extract_place_off {W lo n lo' m : Nat} (v : BitVec n) (h : lo' + m ≤ lo ∨ lo + n ≤ lo') :
    (place W lo v).extractLsb' lo' m = 0#m := by
  ext i hi
  simp [place]
  intro h1 h2
  rcases h with h | h
  · omega
  · simp [BitVec.getLsbD_of_ge v _ (show n ≤ lo' + i - lo by omega)]

/-- A field inside the placed one reads as that part of the value. -/
theorem extract_place_in {W lo n lo' m : Nat} (v : BitVec n) (h : lo ≤ lo') (h2 : lo' + m ≤ lo + n)
    (h3 : lo + n ≤ W) : (place W lo v).extractLsb' lo' m = v.extractLsb' (lo' - lo) m := by
  ext i hi
  simp only [place, BitVec.getElem_extractLsb', BitVec.getLsbD_shiftLeft, BitVec.getLsbD_setWidth,
    show lo' + i < W by omega, show ¬ lo' + i < lo by omega, show lo' + i - lo < W by omega, decide_true, decide_false,
    Bool.not_false, Bool.true_and]
  rw [show lo' + i - lo = lo' - lo + i by omega]

@[simp] theorem bitOf_ofBool (b : Bool) : bitOf (BitVec.ofBool b) = b := by cases b <;> rfl

@[simp] theorem Cond.ofCode_code (c : Cond) : Cond.ofCode c.code = c := by
  cases c with
  | flag n => fin_cases n <;> rfl
  | notFlag n => fin_cases n <;> rfl
  | _ => rfl

@[simp] theorem SReg.ofCode_code (r : SReg) : SReg.ofCode r.code = r := by cases r <;> rfl

theorem UReg.ofCode_code (u : UReg) : UReg.ofCode u.code = some u := by
  cases u with
  | sys r => cases r <;> rfl
  | r n => fin_cases n <;> rfl
  | i n => fin_cases n <;> rfl
  | m n => fin_cases n <;> rfl
  | l n => fin_cases n <;> rfl
  | b n => fin_cases n <;> rfl
  | s n => fin_cases n <;> rfl
  | _ => rfl

end Sys2Proof
end

