-- ==== Sys2Proof/Laws/Flags.lean ====
section
/-! SUPPORT. What the flag updates do to each bit of ASTAT (10_state.md R51, R52). -/

namespace Sys2Proof.Machine

theorem setBit_getLsbD (w : Word) (k j : Nat) (v : Bool) (hk : k < 32) :
    (setBit w k v).getLsbD j = if j = k then v else w.getLsbD j := by
  unfold setBit
  cases v
  · by_cases h : j = k
    · subst h; simp [hk]
    · by_cases hj : j < 32
      · simp [h, hj]
        intro _
        omega
      · simp [h, BitVec.getLsbD_of_ge _ _ (Nat.le_of_not_lt hj)]
  · by_cases h : j = k
    · subst h; simp [hk]
    · simp [h]
      omega

theorem AluFlags.into_getLsbD (f : AluFlags) (w : Word) (j : Nat) :
    (f.into w).getLsbD j =
      if j = 0 then f.az else if j = 1 then f.av else if j = 2 then f.an else if j = 3 then f.ac
      else if j = 4 then f.as else if j = 5 then f.ai else if j = 10 then f.af else w.getLsbD j := by
  unfold AluFlags.into
  simp only [setBit_getLsbD _ _ _ _ (show 10 < 32 by omega), setBit_getLsbD _ _ _ _ (show 5 < 32 by omega),
    setBit_getLsbD _ _ _ _ (show 4 < 32 by omega), setBit_getLsbD _ _ _ _ (show 3 < 32 by omega),
    setBit_getLsbD _ _ _ _ (show 2 < 32 by omega), setBit_getLsbD _ _ _ _ (show 1 < 32 by omega),
    setBit_getLsbD _ _ _ _ (show 0 < 32 by omega)]
  split_ifs <;> first | rfl | omega

theorem MulFlags.into_getLsbD (f : MulFlags) (w : Word) (j : Nat) :
    (f.into w).getLsbD j =
      if j = 6 then f.mn else if j = 7 then f.mv else if j = 8 then f.mu else if j = 9 then f.mi else w.getLsbD j := by
  unfold MulFlags.into
  simp only [setBit_getLsbD _ _ _ _ (show 6 < 32 by omega), setBit_getLsbD _ _ _ _ (show 7 < 32 by omega),
    setBit_getLsbD _ _ _ _ (show 8 < 32 by omega), setBit_getLsbD _ _ _ _ (show 9 < 32 by omega)]
  split_ifs <;> first | rfl | omega

theorem ShiftFlags.into_getLsbD (f : ShiftFlags) (w : Word) (j : Nat) :
    (f.into w).getLsbD j = if j = 11 then f.sv else if j = 12 then f.sz else if j = 13 then f.ss else w.getLsbD j := by
  unfold ShiftFlags.into
  simp only [setBit_getLsbD _ _ _ _ (show 11 < 32 by omega), setBit_getLsbD _ _ _ _ (show 12 < 32 by omega),
    setBit_getLsbD _ _ _ _ (show 13 < 32 by omega)]
  split_ifs <;> first | rfl | omega

theorem accumulateCompare_getLsbD (gt : Bool) (w : Word) (j : Nat) :
    (accumulateCompare gt w).getLsbD j = if j = 31 then gt else if 24 ≤ j then w.getLsbD (j + 1) else w.getLsbD j := by
  unfold accumulateCompare
  simp only [BitVec.getLsbD_append, BitVec.getLsbD_extractLsb']
  by_cases h1 : j < 24
  · simp [h1, show ¬ j = 31 by omega, show ¬ 24 ≤ j by omega, show j < 31 by omega]
  · by_cases h2 : j < 31
    · simp [h1, h2, show ¬ j = 31 by omega, show 24 ≤ j by omega, show j - 24 < 7 by omega]
      rw [show 25 + (j - 24) = j + 1 by omega]
    · by_cases h3 : j = 31
      · subst h3; simp
      · simp [h2, h3, show 24 ≤ j by omega, show ¬ j - 31 = 0 by omega]
        rw [BitVec.getLsbD_of_ge _ _ (by omega)]

end Sys2Proof.Machine
end

