-- ==== Sys2Proof/Laws/Operands.lean ====
section
/-! SUPPORT. What `xfer` writes when the move can be made (40_compute_move.md R221), and when the writes of an
instruction with a move are apart from those of its compute. -/

namespace Sys2Proof.Machine

/-! ### One register -/

theorem valueOf_eq {s : State} {u : UReg} {v : BusWord} (h : s.readUReg u = .ok v) : valueOf s u = v := by
  unfold valueOf; rw [h]

theorem cellLanes_params {s t : State} (h : t.params = s.params) (a : Word) : cellLanes t a = cellLanes s a := by
  unfold cellLanes State.region; rw [h]

/-- A normal cell is no long location, and its lanes are those a move of the register writes. -/
theorem normalCell_region {s : State} {a : Word} {u : UReg} (h : normalCell s a u) :
    s.region a = .word32 ∨ s.region a = .word40 ∨ (u = .px ∧ s.region a = .word48) := by
  rcases h with (h | h) | h
  · exact .inl h
  · exact .inr (.inl h)
  · exact .inr (.inr h)

theorem isLong_of_normal {s : State} {a : Word} {u : UReg} (h : normalCell s a u) : isLong s false a = false := by
  unfold isLong
  rcases normalCell_region h with h | h | ⟨-, h⟩ <;> simp [h]

theorem storeReg_ok {s : State} {a : Word} {u : UReg} (h : movable s true a u) :
    storeReg s false a u = .ok [.cell a (cellLanes s a) (valueOf s u)] := by
  obtain ⟨hc, hp, hv⟩ := h
  obtain ⟨v, hv⟩ := by simpa using hv
  unfold storeReg
  rw [if_neg, isLong_of_normal hc]
  · simp only [Bool.false_eq_true, if_false, hv, Run.ok_bind, valueOf_eq hv]
    unfold storeCell cellLanes
    rcases normalCell_region hc with h | h | ⟨hu, h⟩
    · rw [h]
    · rw [h]
    · subst hu; rw [h]; simp
  · unfold pxRefused
    simp only [decide_eq_true_eq, not_and]
    exact hp

theorem loadReg_ok {s : State} {a : Word} {u : UReg} (h : movable s false a u) :
    loadReg s false a u = .ok [.reg u (cellValue s a)] := by
  obtain ⟨hc, hp, hv⟩ := h
  have hv : s.writeRefusal u (cellValue s a) = none := by simpa using hv
  unfold loadReg
  rw [if_neg, isLong_of_normal hc]
  · have : loadCell s a (decide (u = .px)) = .ok (cellValue s a) := by
      unfold loadCell cellValue cellLanes
      rcases normalCell_region hc with h | h | ⟨hu, h⟩
      · rw [h]
      · rw [h]
      · subst hu; rw [h]; simp
    simp only [Bool.false_eq_true, if_false, this, Run.ok_bind]
    unfold regWrite
    rw [hv]
  · unfold pxRefused
    simp only [decide_eq_true_eq, not_and]
    exact hp

/-- The one write of a move. -/
def moveWrite (s : State) (store : Bool) (a : Word) (u : UReg) : Write :=
  if store then .cell a (cellLanes s a) (valueOf s u) else .reg u (cellValue s a)

theorem apply_moveWrite {s t : State} (ht : t.params = s.params) (store : Bool) (a : Word) (u : UReg) :
    (moveWrite s store a u).apply t = moved s t store a u := by
  unfold moveWrite moved stored
  cases store
  · rfl
  · simp [Write.apply, cellLanes_params ht]

theorem moved_params {s t : State} (store : Bool) (a : Word) (u : UReg) : (moved s t store a u).params = t.params := by
  unfold moved stored
  cases store
  · exact (writeUReg_sameCore t u _).1
  · rfl

/-! ### Both elements -/

/-- What `xfer` answers when the move can be made: writes to known places that leave `movedBoth`. -/
theorem xfer_ok {s : State} {store : Bool} {ax : Word} {u : UReg} {p : CondPair} {k : Option RegNum}
    (h : movableBoth s store (k.any (broadcast s)) ax u p) (hs : s.simd = false → p.cy = false) :
    ∃ ws, xfer s false ax u store p.cx p.cy k = .ok ws ∧
      (∀ t : State, t.params = s.params →
        ws.foldl Write.apply t = movedBoth s t store (k.any (broadcast s)) ax u p) ∧
      ws.flatMap Write.places = movePlaces s store (k.any (broadcast s)) ax u p := by
  obtain ⟨hl, hx, hy, hn⟩ := h
  obtain ⟨cx, cy⟩ := p
  have hlong : isLong s false ax = false := by unfold isLong; simp [hl]
  unfold xfer madeOnce
  simp only [hlong, Bool.false_or]
  cases hc : hasComplement u
  · -- once
    simp only [hc, Bool.false_eq_true, false_implies] at hy hn hx
    have h1 : (s.simd && cx != cy) = false := by
      cases hsd : s.simd
      · rfl
      · simp [show cx = cy from hn trivial hsd]
    simp only [h1, Bool.not_false, if_true, Bool.false_eq_true, if_false]
    unfold onlyIf movedBoth movePlaces loadedRegs storedBoth
    simp only [hc, Bool.false_and, Bool.false_eq_true, if_false, List.append_nil]
    cases cx
    · refine ⟨[], rfl, ?_, ?_⟩ <;> simp
    · have hx := hx rfl
      refine ⟨[moveWrite s store ax u], ?_, ?_, ?_⟩
      · cases store
        · simp [moveWrite, loadReg_ok hx]
        · simp [moveWrite, storeReg_ok hx]
      · intro t ht
        simp [apply_moveWrite ht]
      · cases store
        · simp [moveWrite, Write.places]
        · simp [moveWrite, Write.places]
  · simp only [Bool.not_true, Bool.false_eq_true, if_false]
    have hpx : u ≠ .px := by rintro rfl; simp [hasComplement] at hc
    have hpy : complement u ≠ .px := by cases u <;> simp [complement, hasComplement] at hc hpx ⊢
    simp only [hc, true_implies] at hy
    have hyr : yRuns s store (k.any (broadcast s)) ⟨cx, cy⟩ =
        if store then cy else (cy || (k.any (broadcast s) && !s.simd && cx)) := by
      unfold yRuns; cases store <;> simp
    have key : ∃ wx wy : List Write,
        onlyIf cx (if store then storeReg s false ax u else loadReg s false ax u) = .ok wx ∧
        onlyIf (yRuns s store (k.any (broadcast s)) ⟨cx, cy⟩)
          (if store then storeReg s false (yPlace store (k.any (broadcast s)) ax) (complement u)
            else loadReg s false (yPlace store (k.any (broadcast s)) ax) (complement u)) = .ok wy ∧
        wx = (if cx then [moveWrite s store ax u] else []) ∧
        wy = (if yRuns s store (k.any (broadcast s)) ⟨cx, cy⟩ then
          [moveWrite s store (yPlace store (k.any (broadcast s)) ax) (complement u)] else []) := by
      refine ⟨_, _, ?_, ?_, rfl, rfl⟩
      · unfold onlyIf
        cases cx
        · rfl
        · cases store
          · simp [moveWrite, loadReg_ok (hx rfl)]
          · simp [moveWrite, storeReg_ok (hx rfl)]
      · unfold onlyIf
        cases hyy : yRuns s store (k.any (broadcast s)) ⟨cx, cy⟩
        · rfl
        · have hy := hy hyy
          cases store
          · simp [moveWrite, loadReg_ok hy]
          · simp [moveWrite, storeReg_ok hy]
    obtain ⟨wx, wy, e1, e2, hwx, hwy⟩ := key
    refine ⟨wx ++ wy, ?_, ?_, ?_⟩
    · cases store
      · simp only [Bool.false_eq_true, if_false] at e1 e2 ⊢
        rw [hyr] at e2
        simp only [yPlace, Bool.not_false, Bool.true_and, Bool.false_eq_true, if_false] at e2
        rw [e1, Run.ok_bind]
        unfold yAddr
        rw [e2, Run.ok_bind]; rfl
      · simp only [if_true] at e1 e2 ⊢
        rw [hyr] at e2
        simp only [yPlace, Bool.not_true, Bool.false_and, Bool.false_eq_true, if_false, if_true] at e2
        rw [e1, Run.ok_bind]
        unfold yAddr
        simp only [Bool.false_eq_true, if_false]
        rw [e2, Run.ok_bind]; rfl
    · intro t ht
      rw [List.foldl_append, hwx, hwy]
      unfold movedBoth
      simp only [hc, Bool.true_and]
      cases cx <;> cases yRuns s store (k.any (broadcast s)) _ <;>
        simp [apply_moveWrite ht, apply_moveWrite, moved_params, ht]
    · rw [List.flatMap_append, hwx, hwy]
      unfold movePlaces loadedRegs storedBoth
      have hw : ∀ (st : Bool) (a : Word) (v : UReg),
          (moveWrite s st a v).places = if st then [Place.cell a] else regPlaces v := by
        intro st a v
        cases st <;> rfl
      have hyt : yRuns s true (k.any (broadcast s)) ⟨cx, cy⟩ = yRuns s true false ⟨cx, cy⟩ := by simp [yRuns]
      cases store
      · cases cx <;> cases yRuns s false (k.any (broadcast s)) _ <;> simp [hc, hw]
      · rw [hyt]
        cases cx <;> cases yRuns s true false _ <;>
          simp [hc, hw, yPlace]

end Sys2Proof.Machine
end

