-- ==== Sys2Proof/Laws/State.lean ====
section
/-! SUPPORT. What each field of the state is after each of the plain updates: one lemma per field per update. -/

namespace Sys2Proof.Machine

/-! ### `requestBranch` -/

@[simp] theorem requestBranch_params (s : State) (t : ProgAddr) (d la : Bool) :
    (requestBranch s t d la).params = s.params := rfl
@[simp] theorem requestBranch_x (s : State) (t : ProgAddr) (d la : Bool) : (requestBranch s t d la).x = s.x := rfl
@[simp] theorem requestBranch_y (s : State) (t : ProgAddr) (d la : Bool) : (requestBranch s t d la).y = s.y := rfl
@[simp] theorem requestBranch_i (s : State) (t : ProgAddr) (d la : Bool) : (requestBranch s t d la).i = s.i := rfl
@[simp] theorem requestBranch_m (s : State) (t : ProgAddr) (d la : Bool) : (requestBranch s t d la).m = s.m := rfl
@[simp] theorem requestBranch_l (s : State) (t : ProgAddr) (d la : Bool) : (requestBranch s t d la).l = s.l := rfl
@[simp] theorem requestBranch_b (s : State) (t : ProgAddr) (d la : Bool) : (requestBranch s t d la).b = s.b := rfl
@[simp] theorem requestBranch_px1 (s : State) (t : ProgAddr) (d la : Bool) :
    (requestBranch s t d la).px1 = s.px1 := rfl
@[simp] theorem requestBranch_px2 (s : State) (t : ProgAddr) (d la : Bool) :
    (requestBranch s t d la).px2 = s.px2 := rfl
@[simp] theorem requestBranch_ustat1 (s : State) (t : ProgAddr) (d la : Bool) :
    (requestBranch s t d la).ustat1 = s.ustat1 := rfl
@[simp] theorem requestBranch_ustat2 (s : State) (t : ProgAddr) (d la : Bool) :
    (requestBranch s t d la).ustat2 = s.ustat2 := rfl
@[simp] theorem requestBranch_ustat3 (s : State) (t : ProgAddr) (d la : Bool) :
    (requestBranch s t d la).ustat3 = s.ustat3 := rfl
@[simp] theorem requestBranch_ustat4 (s : State) (t : ProgAddr) (d la : Bool) :
    (requestBranch s t d la).ustat4 = s.ustat4 := rfl
@[simp] theorem requestBranch_pc (s : State) (t : ProgAddr) (d la : Bool) : (requestBranch s t d la).pc = s.pc := rfl
@[simp] theorem requestBranch_pcStack (s : State) (t : ProgAddr) (d la : Bool) :
    (requestBranch s t d la).pcStack = s.pcStack := rfl
@[simp] theorem requestBranch_loops (s : State) (t : ProgAddr) (d la : Bool) :
    (requestBranch s t d la).loops = s.loops := rfl
@[simp] theorem requestBranch_sts (s : State) (t : ProgAddr) (d la : Bool) :
    (requestBranch s t d la).sts = s.sts := rfl
@[simp] theorem requestBranch_lcntr (s : State) (t : ProgAddr) (d la : Bool) :
    (requestBranch s t d la).lcntr = s.lcntr := rfl
@[simp] theorem requestBranch_mode1 (s : State) (t : ProgAddr) (d la : Bool) :
    (requestBranch s t d la).mode1 = s.mode1 := rfl
@[simp] theorem requestBranch_mmask (s : State) (t : ProgAddr) (d la : Bool) :
    (requestBranch s t d la).mmask = s.mmask := rfl
@[simp] theorem requestBranch_mode2 (s : State) (t : ProgAddr) (d la : Bool) :
    (requestBranch s t d la).mode2 = s.mode2 := rfl
@[simp] theorem requestBranch_flags (s : State) (t : ProgAddr) (d la : Bool) :
    (requestBranch s t d la).flags = s.flags := rfl
@[simp] theorem requestBranch_irptl (s : State) (t : ProgAddr) (d la : Bool) :
    (requestBranch s t d la).irptl = s.irptl := rfl
@[simp] theorem requestBranch_hostIrq (s : State) (t : ProgAddr) (d la : Bool) :
    (requestBranch s t d la).hostIrq = s.hostIrq := rfl
@[simp] theorem requestBranch_imask (s : State) (t : ProgAddr) (d la : Bool) :
    (requestBranch s t d la).imask = s.imask := rfl
@[simp] theorem requestBranch_imaskp (s : State) (t : ProgAddr) (d la : Bool) :
    (requestBranch s t d la).imaskp = s.imaskp := rfl
@[simp] theorem requestBranch_lirptl (s : State) (t : ProgAddr) (d la : Bool) :
    (requestBranch s t d la).lirptl = s.lirptl := rfl
@[simp] theorem requestBranch_tperiod (s : State) (t : ProgAddr) (d la : Bool) :
    (requestBranch s t d la).tperiod = s.tperiod := rfl
@[simp] theorem requestBranch_tcount (s : State) (t : ProgAddr) (d la : Bool) :
    (requestBranch s t d la).tcount = s.tcount := rfl
@[simp] theorem requestBranch_dbr (s : State) (t : ProgAddr) (d la : Bool) :
    (requestBranch s t d la).dbr = s.dbr := rfl
@[simp] theorem requestBranch_idle (s : State) (t : ProgAddr) (d la : Bool) :
    (requestBranch s t d la).idle = s.idle := rfl
@[simp] theorem requestBranch_stale (s : State) (t : ProgAddr) (d la : Bool) :
    (requestBranch s t d la).stale = s.stale := rfl
@[simp] theorem requestBranch_mem (s : State) (t : ProgAddr) (d la : Bool) :
    (requestBranch s t d la).mem = s.mem := rfl
@[simp] theorem requestBranch_request (s : State) (t : ProgAddr) (d la : Bool) :
    (requestBranch s t d la).request = some ⟨t, d, la⟩ := rfl
@[simp] theorem requestBranch_mode1Changed (s : State) (t : ProgAddr) (d la : Bool) :
    (requestBranch s t d la).mode1Changed = s.mode1Changed := rfl
@[simp] theorem requestBranch_history (s : State) (t : ProgAddr) (d la : Bool) :
    (requestBranch s t d la).history = s.history := rfl
@[simp] theorem requestBranch_straight (s : State) (t : ProgAddr) (d la : Bool) :
    (requestBranch s t d la).straight = s.straight := rfl
@[simp] theorem requestBranch_irqWait (s : State) (t : ProgAddr) (d la : Bool) :
    (requestBranch s t d la).irqWait = s.irqWait := rfl
@[simp] theorem requestBranch_clock (s : State) (t : ProgAddr) (d la : Bool) :
    (requestBranch s t d la).clock = s.clock := rfl

/-! ### `advance` -/

@[simp] theorem advance_params (s : State) : (advance s).params = s.params := rfl
@[simp] theorem advance_x (s : State) : (advance s).x = s.x := rfl
@[simp] theorem advance_y (s : State) : (advance s).y = s.y := rfl
@[simp] theorem advance_i (s : State) : (advance s).i = s.i := rfl
@[simp] theorem advance_m (s : State) : (advance s).m = s.m := rfl
@[simp] theorem advance_l (s : State) : (advance s).l = s.l := rfl
@[simp] theorem advance_b (s : State) : (advance s).b = s.b := rfl
@[simp] theorem advance_px1 (s : State) : (advance s).px1 = s.px1 := rfl
@[simp] theorem advance_px2 (s : State) : (advance s).px2 = s.px2 := rfl
@[simp] theorem advance_ustat1 (s : State) : (advance s).ustat1 = s.ustat1 := rfl
@[simp] theorem advance_ustat2 (s : State) : (advance s).ustat2 = s.ustat2 := rfl
@[simp] theorem advance_ustat3 (s : State) : (advance s).ustat3 = s.ustat3 := rfl
@[simp] theorem advance_ustat4 (s : State) : (advance s).ustat4 = s.ustat4 := rfl
@[simp] theorem advance_pc (s : State) : (advance s).pc = s.pc + 1#24 := rfl
@[simp] theorem advance_pcStack (s : State) : (advance s).pcStack = s.pcStack := rfl
@[simp] theorem advance_loops (s : State) : (advance s).loops = s.loops := rfl
@[simp] theorem advance_sts (s : State) : (advance s).sts = s.sts := rfl
@[simp] theorem advance_lcntr (s : State) : (advance s).lcntr = s.lcntr := rfl
@[simp] theorem advance_mode1 (s : State) : (advance s).mode1 = s.mode1 := rfl
@[simp] theorem advance_mmask (s : State) : (advance s).mmask = s.mmask := rfl
@[simp] theorem advance_mode2 (s : State) : (advance s).mode2 = s.mode2 := rfl
@[simp] theorem advance_flags (s : State) : (advance s).flags = s.flags := rfl
@[simp] theorem advance_irptl (s : State) : (advance s).irptl = s.irptl := rfl
@[simp] theorem advance_hostIrq (s : State) : (advance s).hostIrq = s.hostIrq := rfl
@[simp] theorem advance_imask (s : State) : (advance s).imask = s.imask := rfl
@[simp] theorem advance_imaskp (s : State) : (advance s).imaskp = s.imaskp := rfl
@[simp] theorem advance_lirptl (s : State) : (advance s).lirptl = s.lirptl := rfl
@[simp] theorem advance_tperiod (s : State) : (advance s).tperiod = s.tperiod := rfl
@[simp] theorem advance_tcount (s : State) : (advance s).tcount = s.tcount := rfl
@[simp] theorem advance_dbr (s : State) : (advance s).dbr = s.dbr := rfl
@[simp] theorem advance_idle (s : State) : (advance s).idle = s.idle := rfl
@[simp] theorem advance_stale (s : State) : (advance s).stale = s.stale := rfl
@[simp] theorem advance_mem (s : State) : (advance s).mem = s.mem := rfl
@[simp] theorem advance_request (s : State) : (advance s).request = s.request := rfl
@[simp] theorem advance_mode1Changed (s : State) : (advance s).mode1Changed = s.mode1Changed := rfl
@[simp] theorem advance_history (s : State) : (advance s).history = s.history := rfl
@[simp] theorem advance_straight (s : State) : (advance s).straight = true := rfl
@[simp] theorem advance_irqWait (s : State) : (advance s).irqWait = s.irqWait := rfl
@[simp] theorem advance_clock (s : State) : (advance s).clock = s.clock := rfl

/-! ### `goTo` -/

@[simp] theorem goTo_params (s : State) (t : ProgAddr) : (goTo s t).params = s.params := rfl
@[simp] theorem goTo_x (s : State) (t : ProgAddr) : (goTo s t).x = s.x := rfl
@[simp] theorem goTo_y (s : State) (t : ProgAddr) : (goTo s t).y = s.y := rfl
@[simp] theorem goTo_i (s : State) (t : ProgAddr) : (goTo s t).i = s.i := rfl
@[simp] theorem goTo_m (s : State) (t : ProgAddr) : (goTo s t).m = s.m := rfl
@[simp] theorem goTo_l (s : State) (t : ProgAddr) : (goTo s t).l = s.l := rfl
@[simp] theorem goTo_b (s : State) (t : ProgAddr) : (goTo s t).b = s.b := rfl
@[simp] theorem goTo_px1 (s : State) (t : ProgAddr) : (goTo s t).px1 = s.px1 := rfl
@[simp] theorem goTo_px2 (s : State) (t : ProgAddr) : (goTo s t).px2 = s.px2 := rfl
@[simp] theorem goTo_ustat1 (s : State) (t : ProgAddr) : (goTo s t).ustat1 = s.ustat1 := rfl
@[simp] theorem goTo_ustat2 (s : State) (t : ProgAddr) : (goTo s t).ustat2 = s.ustat2 := rfl
@[simp] theorem goTo_ustat3 (s : State) (t : ProgAddr) : (goTo s t).ustat3 = s.ustat3 := rfl
@[simp] theorem goTo_ustat4 (s : State) (t : ProgAddr) : (goTo s t).ustat4 = s.ustat4 := rfl
@[simp] theorem goTo_pc (s : State) (t : ProgAddr) : (goTo s t).pc = t := rfl
@[simp] theorem goTo_pcStack (s : State) (t : ProgAddr) : (goTo s t).pcStack = s.pcStack := rfl
@[simp] theorem goTo_loops (s : State) (t : ProgAddr) : (goTo s t).loops = s.loops := rfl
@[simp] theorem goTo_sts (s : State) (t : ProgAddr) : (goTo s t).sts = s.sts := rfl
@[simp] theorem goTo_lcntr (s : State) (t : ProgAddr) : (goTo s t).lcntr = s.lcntr := rfl
@[simp] theorem goTo_mode1 (s : State) (t : ProgAddr) : (goTo s t).mode1 = s.mode1 := rfl
@[simp] theorem goTo_mmask (s : State) (t : ProgAddr) : (goTo s t).mmask = s.mmask := rfl
@[simp] theorem goTo_mode2 (s : State) (t : ProgAddr) : (goTo s t).mode2 = s.mode2 := rfl
@[simp] theorem goTo_flags (s : State) (t : ProgAddr) : (goTo s t).flags = s.flags := rfl
@[simp] theorem goTo_irptl (s : State) (t : ProgAddr) : (goTo s t).irptl = s.irptl := rfl
@[simp] theorem goTo_hostIrq (s : State) (t : ProgAddr) : (goTo s t).hostIrq = s.hostIrq := rfl
@[simp] theorem goTo_imask (s : State) (t : ProgAddr) : (goTo s t).imask = s.imask := rfl
@[simp] theorem goTo_imaskp (s : State) (t : ProgAddr) : (goTo s t).imaskp = s.imaskp := rfl
@[simp] theorem goTo_lirptl (s : State) (t : ProgAddr) : (goTo s t).lirptl = s.lirptl := rfl
@[simp] theorem goTo_tperiod (s : State) (t : ProgAddr) : (goTo s t).tperiod = s.tperiod := rfl
@[simp] theorem goTo_tcount (s : State) (t : ProgAddr) : (goTo s t).tcount = s.tcount := rfl
@[simp] theorem goTo_dbr (s : State) (t : ProgAddr) : (goTo s t).dbr = s.dbr := rfl
@[simp] theorem goTo_idle (s : State) (t : ProgAddr) : (goTo s t).idle = s.idle := rfl
@[simp] theorem goTo_stale (s : State) (t : ProgAddr) : (goTo s t).stale = s.stale := rfl
@[simp] theorem goTo_mem (s : State) (t : ProgAddr) : (goTo s t).mem = s.mem := rfl
@[simp] theorem goTo_request (s : State) (t : ProgAddr) : (goTo s t).request = s.request := rfl
@[simp] theorem goTo_mode1Changed (s : State) (t : ProgAddr) : (goTo s t).mode1Changed = s.mode1Changed := rfl
@[simp] theorem goTo_history (s : State) (t : ProgAddr) : (goTo s t).history = s.history := rfl
@[simp] theorem goTo_straight (s : State) (t : ProgAddr) : (goTo s t).straight = false := rfl
@[simp] theorem goTo_irqWait (s : State) (t : ProgAddr) : (goTo s t).irqWait = s.irqWait := rfl
@[simp] theorem goTo_clock (s : State) (t : ProgAddr) : (goTo s t).clock = s.clock := rfl

/-! ### `tick` -/

@[simp] theorem tick_params (s : State) : (tick s).params = s.params := rfl
@[simp] theorem tick_x (s : State) : (tick s).x = s.x := rfl
@[simp] theorem tick_y (s : State) : (tick s).y = s.y := rfl
@[simp] theorem tick_i (s : State) : (tick s).i = s.i := rfl
@[simp] theorem tick_m (s : State) : (tick s).m = s.m := rfl
@[simp] theorem tick_l (s : State) : (tick s).l = s.l := rfl
@[simp] theorem tick_b (s : State) : (tick s).b = s.b := rfl
@[simp] theorem tick_px1 (s : State) : (tick s).px1 = s.px1 := rfl
@[simp] theorem tick_px2 (s : State) : (tick s).px2 = s.px2 := rfl
@[simp] theorem tick_ustat1 (s : State) : (tick s).ustat1 = s.ustat1 := rfl
@[simp] theorem tick_ustat2 (s : State) : (tick s).ustat2 = s.ustat2 := rfl
@[simp] theorem tick_ustat3 (s : State) : (tick s).ustat3 = s.ustat3 := rfl
@[simp] theorem tick_ustat4 (s : State) : (tick s).ustat4 = s.ustat4 := rfl
@[simp] theorem tick_pc (s : State) : (tick s).pc = s.pc := rfl
@[simp] theorem tick_pcStack (s : State) : (tick s).pcStack = s.pcStack := rfl
@[simp] theorem tick_loops (s : State) : (tick s).loops = s.loops := rfl
@[simp] theorem tick_sts (s : State) : (tick s).sts = s.sts := rfl
@[simp] theorem tick_lcntr (s : State) : (tick s).lcntr = s.lcntr := rfl
@[simp] theorem tick_mode1 (s : State) : (tick s).mode1 = s.mode1 := rfl
@[simp] theorem tick_mmask (s : State) : (tick s).mmask = s.mmask := rfl
@[simp] theorem tick_mode2 (s : State) : (tick s).mode2 = s.mode2 := rfl
@[simp] theorem tick_flags (s : State) : (tick s).flags = s.flags := rfl
@[simp] theorem tick_irptl (s : State) : (tick s).irptl = s.irptl := rfl
@[simp] theorem tick_hostIrq (s : State) : (tick s).hostIrq = s.hostIrq := rfl
@[simp] theorem tick_imask (s : State) : (tick s).imask = s.imask := rfl
@[simp] theorem tick_imaskp (s : State) : (tick s).imaskp = s.imaskp := rfl
@[simp] theorem tick_lirptl (s : State) : (tick s).lirptl = s.lirptl := rfl
@[simp] theorem tick_tperiod (s : State) : (tick s).tperiod = s.tperiod := rfl
@[simp] theorem tick_tcount (s : State) : (tick s).tcount = s.tcount := rfl
@[simp] theorem tick_dbr (s : State) : (tick s).dbr = s.dbr := rfl
@[simp] theorem tick_idle (s : State) : (tick s).idle = s.idle := rfl
@[simp] theorem tick_stale (s : State) : (tick s).stale = s.stale := rfl
@[simp] theorem tick_mem (s : State) : (tick s).mem = s.mem := rfl
@[simp] theorem tick_request (s : State) : (tick s).request = s.request := rfl
@[simp] theorem tick_mode1Changed (s : State) : (tick s).mode1Changed = s.mode1Changed := rfl
@[simp] theorem tick_history (s : State) : (tick s).history = s.history := rfl
@[simp] theorem tick_straight (s : State) : (tick s).straight = s.straight := rfl
@[simp] theorem tick_irqWait (s : State) : (tick s).irqWait = s.irqWait := rfl
@[simp] theorem tick_clock (s : State) : (tick s).clock = s.clock + 1 := rfl

/-! ### `stored` -/

@[simp] theorem stored_params (s : State) (a : Word) (v : BusWord) : (stored s a v).params = s.params := rfl
@[simp] theorem stored_x (s : State) (a : Word) (v : BusWord) : (stored s a v).x = s.x := rfl
@[simp] theorem stored_y (s : State) (a : Word) (v : BusWord) : (stored s a v).y = s.y := rfl
@[simp] theorem stored_i (s : State) (a : Word) (v : BusWord) : (stored s a v).i = s.i := rfl
@[simp] theorem stored_m (s : State) (a : Word) (v : BusWord) : (stored s a v).m = s.m := rfl
@[simp] theorem stored_l (s : State) (a : Word) (v : BusWord) : (stored s a v).l = s.l := rfl
@[simp] theorem stored_b (s : State) (a : Word) (v : BusWord) : (stored s a v).b = s.b := rfl
@[simp] theorem stored_px1 (s : State) (a : Word) (v : BusWord) : (stored s a v).px1 = s.px1 := rfl
@[simp] theorem stored_px2 (s : State) (a : Word) (v : BusWord) : (stored s a v).px2 = s.px2 := rfl
@[simp] theorem stored_ustat1 (s : State) (a : Word) (v : BusWord) : (stored s a v).ustat1 = s.ustat1 := rfl
@[simp] theorem stored_ustat2 (s : State) (a : Word) (v : BusWord) : (stored s a v).ustat2 = s.ustat2 := rfl
@[simp] theorem stored_ustat3 (s : State) (a : Word) (v : BusWord) : (stored s a v).ustat3 = s.ustat3 := rfl
@[simp] theorem stored_ustat4 (s : State) (a : Word) (v : BusWord) : (stored s a v).ustat4 = s.ustat4 := rfl
@[simp] theorem stored_pc (s : State) (a : Word) (v : BusWord) : (stored s a v).pc = s.pc := rfl
@[simp] theorem stored_pcStack (s : State) (a : Word) (v : BusWord) : (stored s a v).pcStack = s.pcStack := rfl
@[simp] theorem stored_loops (s : State) (a : Word) (v : BusWord) : (stored s a v).loops = s.loops := rfl
@[simp] theorem stored_sts (s : State) (a : Word) (v : BusWord) : (stored s a v).sts = s.sts := rfl
@[simp] theorem stored_lcntr (s : State) (a : Word) (v : BusWord) : (stored s a v).lcntr = s.lcntr := rfl
@[simp] theorem stored_mode1 (s : State) (a : Word) (v : BusWord) : (stored s a v).mode1 = s.mode1 := rfl
@[simp] theorem stored_mmask (s : State) (a : Word) (v : BusWord) : (stored s a v).mmask = s.mmask := rfl
@[simp] theorem stored_mode2 (s : State) (a : Word) (v : BusWord) : (stored s a v).mode2 = s.mode2 := rfl
@[simp] theorem stored_flags (s : State) (a : Word) (v : BusWord) : (stored s a v).flags = s.flags := rfl
@[simp] theorem stored_irptl (s : State) (a : Word) (v : BusWord) : (stored s a v).irptl = s.irptl := rfl
@[simp] theorem stored_hostIrq (s : State) (a : Word) (v : BusWord) : (stored s a v).hostIrq = s.hostIrq := rfl
@[simp] theorem stored_imask (s : State) (a : Word) (v : BusWord) : (stored s a v).imask = s.imask := rfl
@[simp] theorem stored_imaskp (s : State) (a : Word) (v : BusWord) : (stored s a v).imaskp = s.imaskp := rfl
@[simp] theorem stored_lirptl (s : State) (a : Word) (v : BusWord) : (stored s a v).lirptl = s.lirptl := rfl
@[simp] theorem stored_tperiod (s : State) (a : Word) (v : BusWord) : (stored s a v).tperiod = s.tperiod := rfl
@[simp] theorem stored_tcount (s : State) (a : Word) (v : BusWord) : (stored s a v).tcount = s.tcount := rfl
@[simp] theorem stored_dbr (s : State) (a : Word) (v : BusWord) : (stored s a v).dbr = s.dbr := rfl
@[simp] theorem stored_idle (s : State) (a : Word) (v : BusWord) : (stored s a v).idle = s.idle := rfl
@[simp] theorem stored_stale (s : State) (a : Word) (v : BusWord) : (stored s a v).stale = insertAddr a s.stale := rfl
@[simp] theorem stored_mem (s : State) (a : Word) (v : BusWord) :
    (stored s a v).mem = s.mem.writeCell a (cellLanes s a) v := rfl
@[simp] theorem stored_request (s : State) (a : Word) (v : BusWord) : (stored s a v).request = s.request := rfl
@[simp] theorem stored_mode1Changed (s : State) (a : Word) (v : BusWord) :
    (stored s a v).mode1Changed = s.mode1Changed := rfl
@[simp] theorem stored_history (s : State) (a : Word) (v : BusWord) : (stored s a v).history = s.history := rfl
@[simp] theorem stored_straight (s : State) (a : Word) (v : BusWord) : (stored s a v).straight = s.straight := rfl
@[simp] theorem stored_irqWait (s : State) (a : Word) (v : BusWord) : (stored s a v).irqWait = s.irqWait := rfl
@[simp] theorem stored_clock (s : State) (a : Word) (v : BusWord) : (stored s a v).clock = s.clock := rfl

/-! ### `onElements` -/

@[simp] theorem onElements_params (s : State) (f : Pe → Pe) : (onElements s f).params = s.params := rfl
@[simp] theorem onElements_x (s : State) (f : Pe → Pe) : (onElements s f).x = f s.x := rfl
@[simp] theorem onElements_y (s : State) (f : Pe → Pe) : (onElements s f).y = if s.simd then f s.y else s.y := rfl
@[simp] theorem onElements_i (s : State) (f : Pe → Pe) : (onElements s f).i = s.i := rfl
@[simp] theorem onElements_m (s : State) (f : Pe → Pe) : (onElements s f).m = s.m := rfl
@[simp] theorem onElements_l (s : State) (f : Pe → Pe) : (onElements s f).l = s.l := rfl
@[simp] theorem onElements_b (s : State) (f : Pe → Pe) : (onElements s f).b = s.b := rfl
@[simp] theorem onElements_px1 (s : State) (f : Pe → Pe) : (onElements s f).px1 = s.px1 := rfl
@[simp] theorem onElements_px2 (s : State) (f : Pe → Pe) : (onElements s f).px2 = s.px2 := rfl
@[simp] theorem onElements_ustat1 (s : State) (f : Pe → Pe) : (onElements s f).ustat1 = s.ustat1 := rfl
@[simp] theorem onElements_ustat2 (s : State) (f : Pe → Pe) : (onElements s f).ustat2 = s.ustat2 := rfl
@[simp] theorem onElements_ustat3 (s : State) (f : Pe → Pe) : (onElements s f).ustat3 = s.ustat3 := rfl
@[simp] theorem onElements_ustat4 (s : State) (f : Pe → Pe) : (onElements s f).ustat4 = s.ustat4 := rfl
@[simp] theorem onElements_pc (s : State) (f : Pe → Pe) : (onElements s f).pc = s.pc := rfl
@[simp] theorem onElements_pcStack (s : State) (f : Pe → Pe) : (onElements s f).pcStack = s.pcStack := rfl
@[simp] theorem onElements_loops (s : State) (f : Pe → Pe) : (onElements s f).loops = s.loops := rfl
@[simp] theorem onElements_sts (s : State) (f : Pe → Pe) : (onElements s f).sts = s.sts := rfl
@[simp] theorem onElements_lcntr (s : State) (f : Pe → Pe) : (onElements s f).lcntr = s.lcntr := rfl
@[simp] theorem onElements_mode1 (s : State) (f : Pe → Pe) : (onElements s f).mode1 = s.mode1 := rfl
@[simp] theorem onElements_mmask (s : State) (f : Pe → Pe) : (onElements s f).mmask = s.mmask := rfl
@[simp] theorem onElements_mode2 (s : State) (f : Pe → Pe) : (onElements s f).mode2 = s.mode2 := rfl
@[simp] theorem onElements_flags (s : State) (f : Pe → Pe) : (onElements s f).flags = s.flags := rfl
@[simp] theorem onElements_irptl (s : State) (f : Pe → Pe) : (onElements s f).irptl = s.irptl := rfl
@[simp] theorem onElements_hostIrq (s : State) (f : Pe → Pe) : (onElements s f).hostIrq = s.hostIrq := rfl
@[simp] theorem onElements_imask (s : State) (f : Pe → Pe) : (onElements s f).imask = s.imask := rfl
@[simp] theorem onElements_imaskp (s : State) (f : Pe → Pe) : (onElements s f).imaskp = s.imaskp := rfl
@[simp] theorem onElements_lirptl (s : State) (f : Pe → Pe) : (onElements s f).lirptl = s.lirptl := rfl
@[simp] theorem onElements_tperiod (s : State) (f : Pe → Pe) : (onElements s f).tperiod = s.tperiod := rfl
@[simp] theorem onElements_tcount (s : State) (f : Pe → Pe) : (onElements s f).tcount = s.tcount := rfl
@[simp] theorem onElements_dbr (s : State) (f : Pe → Pe) : (onElements s f).dbr = s.dbr := rfl
@[simp] theorem onElements_idle (s : State) (f : Pe → Pe) : (onElements s f).idle = s.idle := rfl
@[simp] theorem onElements_stale (s : State) (f : Pe → Pe) : (onElements s f).stale = s.stale := rfl
@[simp] theorem onElements_mem (s : State) (f : Pe → Pe) : (onElements s f).mem = s.mem := rfl
@[simp] theorem onElements_request (s : State) (f : Pe → Pe) : (onElements s f).request = s.request := rfl
@[simp] theorem onElements_mode1Changed (s : State) (f : Pe → Pe) :
    (onElements s f).mode1Changed = s.mode1Changed := rfl
@[simp] theorem onElements_history (s : State) (f : Pe → Pe) : (onElements s f).history = s.history := rfl
@[simp] theorem onElements_straight (s : State) (f : Pe → Pe) : (onElements s f).straight = s.straight := rfl
@[simp] theorem onElements_irqWait (s : State) (f : Pe → Pe) : (onElements s f).irqWait = s.irqWait := rfl
@[simp] theorem onElements_clock (s : State) (f : Pe → Pe) : (onElements s f).clock = s.clock := rfl

/-! ### `computed` -/

@[simp] theorem computed_params (s : State) (c : Compute) (p : CondPair) : (computed s c p).params = s.params := rfl
@[simp] theorem computed_x (s : State) (c : Compute) (p : CondPair) :
    (computed s c p).x = if p.cx then s.x.apply (evalCompute c (s.env .x) s.x) else s.x := rfl
@[simp] theorem computed_y (s : State) (c : Compute) (p : CondPair) :
    (computed s c p).y = if p.cy then s.y.apply (evalCompute c (s.env .y) s.y) else s.y := rfl
@[simp] theorem computed_i (s : State) (c : Compute) (p : CondPair) : (computed s c p).i = s.i := rfl
@[simp] theorem computed_m (s : State) (c : Compute) (p : CondPair) : (computed s c p).m = s.m := rfl
@[simp] theorem computed_l (s : State) (c : Compute) (p : CondPair) : (computed s c p).l = s.l := rfl
@[simp] theorem computed_b (s : State) (c : Compute) (p : CondPair) : (computed s c p).b = s.b := rfl
@[simp] theorem computed_px1 (s : State) (c : Compute) (p : CondPair) : (computed s c p).px1 = s.px1 := rfl
@[simp] theorem computed_px2 (s : State) (c : Compute) (p : CondPair) : (computed s c p).px2 = s.px2 := rfl
@[simp] theorem computed_ustat1 (s : State) (c : Compute) (p : CondPair) : (computed s c p).ustat1 = s.ustat1 := rfl
@[simp] theorem computed_ustat2 (s : State) (c : Compute) (p : CondPair) : (computed s c p).ustat2 = s.ustat2 := rfl
@[simp] theorem computed_ustat3 (s : State) (c : Compute) (p : CondPair) : (computed s c p).ustat3 = s.ustat3 := rfl
@[simp] theorem computed_ustat4 (s : State) (c : Compute) (p : CondPair) : (computed s c p).ustat4 = s.ustat4 := rfl
@[simp] theorem computed_pc (s : State) (c : Compute) (p : CondPair) : (computed s c p).pc = s.pc := rfl
@[simp] theorem computed_pcStack (s : State) (c : Compute) (p : CondPair) :
    (computed s c p).pcStack = s.pcStack := rfl
@[simp] theorem computed_loops (s : State) (c : Compute) (p : CondPair) : (computed s c p).loops = s.loops := rfl
@[simp] theorem computed_sts (s : State) (c : Compute) (p : CondPair) : (computed s c p).sts = s.sts := rfl
@[simp] theorem computed_lcntr (s : State) (c : Compute) (p : CondPair) : (computed s c p).lcntr = s.lcntr := rfl
@[simp] theorem computed_mode1 (s : State) (c : Compute) (p : CondPair) : (computed s c p).mode1 = s.mode1 := rfl
@[simp] theorem computed_mmask (s : State) (c : Compute) (p : CondPair) : (computed s c p).mmask = s.mmask := rfl
@[simp] theorem computed_mode2 (s : State) (c : Compute) (p : CondPair) : (computed s c p).mode2 = s.mode2 := rfl
@[simp] theorem computed_flags (s : State) (c : Compute) (p : CondPair) : (computed s c p).flags = s.flags := rfl
@[simp] theorem computed_irptl (s : State) (c : Compute) (p : CondPair) : (computed s c p).irptl = s.irptl := rfl
@[simp] theorem computed_hostIrq (s : State) (c : Compute) (p : CondPair) :
    (computed s c p).hostIrq = s.hostIrq := rfl
@[simp] theorem computed_imask (s : State) (c : Compute) (p : CondPair) : (computed s c p).imask = s.imask := rfl
@[simp] theorem computed_imaskp (s : State) (c : Compute) (p : CondPair) : (computed s c p).imaskp = s.imaskp := rfl
@[simp] theorem computed_lirptl (s : State) (c : Compute) (p : CondPair) : (computed s c p).lirptl = s.lirptl := rfl
@[simp] theorem computed_tperiod (s : State) (c : Compute) (p : CondPair) :
    (computed s c p).tperiod = s.tperiod := rfl
@[simp] theorem computed_tcount (s : State) (c : Compute) (p : CondPair) : (computed s c p).tcount = s.tcount := rfl
@[simp] theorem computed_dbr (s : State) (c : Compute) (p : CondPair) : (computed s c p).dbr = s.dbr := rfl
@[simp] theorem computed_idle (s : State) (c : Compute) (p : CondPair) : (computed s c p).idle = s.idle := rfl
@[simp] theorem computed_stale (s : State) (c : Compute) (p : CondPair) : (computed s c p).stale = s.stale := rfl
@[simp] theorem computed_mem (s : State) (c : Compute) (p : CondPair) : (computed s c p).mem = s.mem := rfl
@[simp] theorem computed_request (s : State) (c : Compute) (p : CondPair) :
    (computed s c p).request = s.request := rfl
@[simp] theorem computed_mode1Changed (s : State) (c : Compute) (p : CondPair) :
    (computed s c p).mode1Changed = s.mode1Changed := rfl
@[simp] theorem computed_history (s : State) (c : Compute) (p : CondPair) :
    (computed s c p).history = s.history := rfl
@[simp] theorem computed_straight (s : State) (c : Compute) (p : CondPair) :
    (computed s c p).straight = s.straight := rfl
@[simp] theorem computed_irqWait (s : State) (c : Compute) (p : CondPair) :
    (computed s c p).irqWait = s.irqWait := rfl
@[simp] theorem computed_clock (s : State) (c : Compute) (p : CondPair) : (computed s c p).clock = s.clock := rfl

/-! ### `shifted` -/

@[simp] theorem shifted_params (s : State) (sh : ShiftImm) (p : CondPair) : (shifted s sh p).params = s.params := rfl
@[simp] theorem shifted_x (s : State) (sh : ShiftImm) (p : CondPair) :
    (shifted s sh p).x = if p.cx then s.x.apply (evalShiftImm sh (s.env .x) s.x) else s.x := rfl
@[simp] theorem shifted_y (s : State) (sh : ShiftImm) (p : CondPair) :
    (shifted s sh p).y = if p.cy then s.y.apply (evalShiftImm sh (s.env .y) s.y) else s.y := rfl
@[simp] theorem shifted_i (s : State) (sh : ShiftImm) (p : CondPair) : (shifted s sh p).i = s.i := rfl
@[simp] theorem shifted_m (s : State) (sh : ShiftImm) (p : CondPair) : (shifted s sh p).m = s.m := rfl
@[simp] theorem shifted_l (s : State) (sh : ShiftImm) (p : CondPair) : (shifted s sh p).l = s.l := rfl
@[simp] theorem shifted_b (s : State) (sh : ShiftImm) (p : CondPair) : (shifted s sh p).b = s.b := rfl
@[simp] theorem shifted_px1 (s : State) (sh : ShiftImm) (p : CondPair) : (shifted s sh p).px1 = s.px1 := rfl
@[simp] theorem shifted_px2 (s : State) (sh : ShiftImm) (p : CondPair) : (shifted s sh p).px2 = s.px2 := rfl
@[simp] theorem shifted_ustat1 (s : State) (sh : ShiftImm) (p : CondPair) : (shifted s sh p).ustat1 = s.ustat1 := rfl
@[simp] theorem shifted_ustat2 (s : State) (sh : ShiftImm) (p : CondPair) : (shifted s sh p).ustat2 = s.ustat2 := rfl
@[simp] theorem shifted_ustat3 (s : State) (sh : ShiftImm) (p : CondPair) : (shifted s sh p).ustat3 = s.ustat3 := rfl
@[simp] theorem shifted_ustat4 (s : State) (sh : ShiftImm) (p : CondPair) : (shifted s sh p).ustat4 = s.ustat4 := rfl
@[simp] theorem shifted_pc (s : State) (sh : ShiftImm) (p : CondPair) : (shifted s sh p).pc = s.pc := rfl
@[simp] theorem shifted_pcStack (s : State) (sh : ShiftImm) (p : CondPair) :
    (shifted s sh p).pcStack = s.pcStack := rfl
@[simp] theorem shifted_loops (s : State) (sh : ShiftImm) (p : CondPair) : (shifted s sh p).loops = s.loops := rfl
@[simp] theorem shifted_sts (s : State) (sh : ShiftImm) (p : CondPair) : (shifted s sh p).sts = s.sts := rfl
@[simp] theorem shifted_lcntr (s : State) (sh : ShiftImm) (p : CondPair) : (shifted s sh p).lcntr = s.lcntr := rfl
@[simp] theorem shifted_mode1 (s : State) (sh : ShiftImm) (p : CondPair) : (shifted s sh p).mode1 = s.mode1 := rfl
@[simp] theorem shifted_mmask (s : State) (sh : ShiftImm) (p : CondPair) : (shifted s sh p).mmask = s.mmask := rfl
@[simp] theorem shifted_mode2 (s : State) (sh : ShiftImm) (p : CondPair) : (shifted s sh p).mode2 = s.mode2 := rfl
@[simp] theorem shifted_flags (s : State) (sh : ShiftImm) (p : CondPair) : (shifted s sh p).flags = s.flags := rfl
@[simp] theorem shifted_irptl (s : State) (sh : ShiftImm) (p : CondPair) : (shifted s sh p).irptl = s.irptl := rfl
@[simp] theorem shifted_hostIrq (s : State) (sh : ShiftImm) (p : CondPair) :
    (shifted s sh p).hostIrq = s.hostIrq := rfl
@[simp] theorem shifted_imask (s : State) (sh : ShiftImm) (p : CondPair) : (shifted s sh p).imask = s.imask := rfl
@[simp] theorem shifted_imaskp (s : State) (sh : ShiftImm) (p : CondPair) : (shifted s sh p).imaskp = s.imaskp := rfl
@[simp] theorem shifted_lirptl (s : State) (sh : ShiftImm) (p : CondPair) : (shifted s sh p).lirptl = s.lirptl := rfl
@[simp] theorem shifted_tperiod (s : State) (sh : ShiftImm) (p : CondPair) :
    (shifted s sh p).tperiod = s.tperiod := rfl
@[simp] theorem shifted_tcount (s : State) (sh : ShiftImm) (p : CondPair) : (shifted s sh p).tcount = s.tcount := rfl
@[simp] theorem shifted_dbr (s : State) (sh : ShiftImm) (p : CondPair) : (shifted s sh p).dbr = s.dbr := rfl
@[simp] theorem shifted_idle (s : State) (sh : ShiftImm) (p : CondPair) : (shifted s sh p).idle = s.idle := rfl
@[simp] theorem shifted_stale (s : State) (sh : ShiftImm) (p : CondPair) : (shifted s sh p).stale = s.stale := rfl
@[simp] theorem shifted_mem (s : State) (sh : ShiftImm) (p : CondPair) : (shifted s sh p).mem = s.mem := rfl
@[simp] theorem shifted_request (s : State) (sh : ShiftImm) (p : CondPair) :
    (shifted s sh p).request = s.request := rfl
@[simp] theorem shifted_mode1Changed (s : State) (sh : ShiftImm) (p : CondPair) :
    (shifted s sh p).mode1Changed = s.mode1Changed := rfl
@[simp] theorem shifted_history (s : State) (sh : ShiftImm) (p : CondPair) :
    (shifted s sh p).history = s.history := rfl
@[simp] theorem shifted_straight (s : State) (sh : ShiftImm) (p : CondPair) :
    (shifted s sh p).straight = s.straight := rfl
@[simp] theorem shifted_irqWait (s : State) (sh : ShiftImm) (p : CondPair) :
    (shifted s sh p).irqWait = s.irqWait := rfl
@[simp] theorem shifted_clock (s : State) (sh : ShiftImm) (p : CondPair) : (shifted s sh p).clock = s.clock := rfl

/-! ### `withPe` -/

@[simp] theorem withPe_params (s : State) (e : Element) (p : Pe) :
    (s.withPe e p).params = s.params := by cases e <;> rfl
@[simp] theorem withPe_i (s : State) (e : Element) (p : Pe) :
    (s.withPe e p).i = s.i := by cases e <;> rfl
@[simp] theorem withPe_m (s : State) (e : Element) (p : Pe) :
    (s.withPe e p).m = s.m := by cases e <;> rfl
@[simp] theorem withPe_l (s : State) (e : Element) (p : Pe) :
    (s.withPe e p).l = s.l := by cases e <;> rfl
@[simp] theorem withPe_b (s : State) (e : Element) (p : Pe) :
    (s.withPe e p).b = s.b := by cases e <;> rfl
@[simp] theorem withPe_px1 (s : State) (e : Element) (p : Pe) :
    (s.withPe e p).px1 = s.px1 := by cases e <;> rfl
@[simp] theorem withPe_px2 (s : State) (e : Element) (p : Pe) :
    (s.withPe e p).px2 = s.px2 := by cases e <;> rfl
@[simp] theorem withPe_ustat1 (s : State) (e : Element) (p : Pe) :
    (s.withPe e p).ustat1 = s.ustat1 := by cases e <;> rfl
@[simp] theorem withPe_ustat2 (s : State) (e : Element) (p : Pe) :
    (s.withPe e p).ustat2 = s.ustat2 := by cases e <;> rfl
@[simp] theorem withPe_ustat3 (s : State) (e : Element) (p : Pe) :
    (s.withPe e p).ustat3 = s.ustat3 := by cases e <;> rfl
@[simp] theorem withPe_ustat4 (s : State) (e : Element) (p : Pe) :
    (s.withPe e p).ustat4 = s.ustat4 := by cases e <;> rfl
@[simp] theorem withPe_pc (s : State) (e : Element) (p : Pe) :
    (s.withPe e p).pc = s.pc := by cases e <;> rfl
@[simp] theorem withPe_pcStack (s : State) (e : Element) (p : Pe) :
    (s.withPe e p).pcStack = s.pcStack := by cases e <;> rfl
@[simp] theorem withPe_loops (s : State) (e : Element) (p : Pe) :
    (s.withPe e p).loops = s.loops := by cases e <;> rfl
@[simp] theorem withPe_sts (s : State) (e : Element) (p : Pe) :
    (s.withPe e p).sts = s.sts := by cases e <;> rfl
@[simp] theorem withPe_lcntr (s : State) (e : Element) (p : Pe) :
    (s.withPe e p).lcntr = s.lcntr := by cases e <;> rfl
@[simp] theorem withPe_mode1 (s : State) (e : Element) (p : Pe) :
    (s.withPe e p).mode1 = s.mode1 := by cases e <;> rfl
@[simp] theorem withPe_mmask (s : State) (e : Element) (p : Pe) :
    (s.withPe e p).mmask = s.mmask := by cases e <;> rfl
@[simp] theorem withPe_mode2 (s : State) (e : Element) (p : Pe) :
    (s.withPe e p).mode2 = s.mode2 := by cases e <;> rfl
@[simp] theorem withPe_flags (s : State) (e : Element) (p : Pe) :
    (s.withPe e p).flags = s.flags := by cases e <;> rfl
@[simp] theorem withPe_irptl (s : State) (e : Element) (p : Pe) :
    (s.withPe e p).irptl = s.irptl := by cases e <;> rfl
@[simp] theorem withPe_hostIrq (s : State) (e : Element) (p : Pe) :
    (s.withPe e p).hostIrq = s.hostIrq := by cases e <;> rfl
@[simp] theorem withPe_imask (s : State) (e : Element) (p : Pe) :
    (s.withPe e p).imask = s.imask := by cases e <;> rfl
@[simp] theorem withPe_imaskp (s : State) (e : Element) (p : Pe) :
    (s.withPe e p).imaskp = s.imaskp := by cases e <;> rfl
@[simp] theorem withPe_lirptl (s : State) (e : Element) (p : Pe) :
    (s.withPe e p).lirptl = s.lirptl := by cases e <;> rfl
@[simp] theorem withPe_tperiod (s : State) (e : Element) (p : Pe) :
    (s.withPe e p).tperiod = s.tperiod := by cases e <;> rfl
@[simp] theorem withPe_tcount (s : State) (e : Element) (p : Pe) :
    (s.withPe e p).tcount = s.tcount := by cases e <;> rfl
@[simp] theorem withPe_dbr (s : State) (e : Element) (p : Pe) :
    (s.withPe e p).dbr = s.dbr := by cases e <;> rfl
@[simp] theorem withPe_idle (s : State) (e : Element) (p : Pe) :
    (s.withPe e p).idle = s.idle := by cases e <;> rfl
@[simp] theorem withPe_stale (s : State) (e : Element) (p : Pe) :
    (s.withPe e p).stale = s.stale := by cases e <;> rfl
@[simp] theorem withPe_mem (s : State) (e : Element) (p : Pe) :
    (s.withPe e p).mem = s.mem := by cases e <;> rfl
@[simp] theorem withPe_request (s : State) (e : Element) (p : Pe) :
    (s.withPe e p).request = s.request := by cases e <;> rfl
@[simp] theorem withPe_mode1Changed (s : State) (e : Element) (p : Pe) :
    (s.withPe e p).mode1Changed = s.mode1Changed := by cases e <;> rfl
@[simp] theorem withPe_history (s : State) (e : Element) (p : Pe) :
    (s.withPe e p).history = s.history := by cases e <;> rfl
@[simp] theorem withPe_straight (s : State) (e : Element) (p : Pe) :
    (s.withPe e p).straight = s.straight := by cases e <;> rfl
@[simp] theorem withPe_irqWait (s : State) (e : Element) (p : Pe) :
    (s.withPe e p).irqWait = s.irqWait := by cases e <;> rfl
@[simp] theorem withPe_clock (s : State) (e : Element) (p : Pe) :
    (s.withPe e p).clock = s.clock := by cases e <;> rfl

/-- The element just replaced. -/
@[simp] theorem withPe_pe (s : State) (e : Element) (p : Pe) : (s.withPe e p).pe e = p := by cases e <;> rfl

/-- The other element is kept. -/
theorem withPe_pe_other (s : State) (e f : Element) (p : Pe) (h : f ≠ e) : (s.withPe e p).pe f = s.pe f := by
  cases e <;> cases f <;> first | rfl | exact absurd rfl h

end Sys2Proof.Machine
end

