-- ==== Sys2Proof/Laws/Moves.lean ====
section
/-! SUPPORT. What an instruction with a compute and one or two moves commits: the compute, the moves and the
post-modifies, or a refusal when a place is written twice (20_memory.md R125, 40_compute_move.md R222 to R228). -/

namespace Sys2Proof.Machine

/-! ### Index registers -/

theorem foldl_indexWrites (t : State) (k : RegNum) (v : Word) (wrapped : Bool) :
    (indexWrites k v wrapped).foldl Write.apply t = indexed t k v wrapped := by
  cases wrapped <;> simp [indexWrites, indexWrite, indexed, Write.apply, State.writeUReg]

theorem foldl_postmodWrites (s t : State) (go : Bool) (k : RegNum) (m : Word) :
    (postmodWrites s go k m).foldl Write.apply t = postModified s t go k m := by
  unfold postmodWrites postModified
  cases go
  · rfl
  · simp [foldl_indexWrites]

/-- An index update writes no place twice. -/
theorem indexWrites_nodup (k : RegNum) (v : Word) (wrapped : Bool) :
    ((indexWrites k v wrapped).flatMap Write.places).Nodup := by
  cases wrapped <;> simp [indexWrites, indexWrite, Write.places, regPlaces]

theorem movedBoth_params (s t : State) (store bc : Bool) (ax : Word) (u : UReg) (p : CondPair) :
    (movedBoth s t store bc ax u p).params = t.params := by
  unfold movedBoth
  cases p.cx <;> cases (hasComplement u && yRuns s store bc p) <;> simp [moved_params]

/-! ### One move -/

/-- What the list of writes of a move does, as `xfer_ok` answers it. -/
def MoveWrites (s : State) (store bc : Bool) (ax : Word) (u : UReg) (p : CondPair) (ws : List Write) : Prop :=
  (∀ t : State, t.params = s.params → ws.foldl Write.apply t = movedBoth s t store bc ax u p) ∧
    ws.flatMap Write.places = movePlaces s store bc ax u p

/-- A compute, a move and a post-modify. -/
theorem commit_move {s : State} {c : Compute} {store bc : Bool} {ax : Word} {u : UReg} {p : CondPair}
    {ws : List Write} (go : Bool) {k : RegNum} (m : Word) (hw : MoveWrites s store bc ax u p ws) :
    commit s (computeWrites s c p.cx p.cy ++ ws ++ postmodWrites s go k m) =
      if (computePlaces s c p ++ movePlaces s store bc ax u p ++ postPlaces s go k m).Nodup then
        .ok (postModified s (movedBoth s (computed s c p) store bc ax u p) go k m)
      else refuse .doubleWrite := by
  unfold commit
  simp only [List.flatMap_append, hw.2, List.foldl_append, foldl_computeWrites, hw.1 _ (computed_params s c _),
    foldl_postmodWrites]
  rfl

/-- A compute and a move. -/
theorem commit_move_alone {s : State} {c : Compute} {store bc : Bool} {ax : Word} {u : UReg} {p : CondPair}
    {ws : List Write} (hw : MoveWrites s store bc ax u p ws) :
    commit s (computeWrites s c p.cx p.cy ++ ws) =
      if (computePlaces s c p ++ movePlaces s store bc ax u p).Nodup then
        .ok (movedBoth s (computed s c p) store bc ax u p)
      else refuse .doubleWrite := by
  unfold commit
  rw [List.flatMap_append, hw.2, List.foldl_append, foldl_computeWrites, hw.1 _ (computed_params s c _)]
  rfl

/-- The places of one register are distinct. -/
theorem regPlaces_nodup (u : UReg) : (regPlaces u).Nodup := by
  cases u with
  | sys r => cases r <;> simp [regPlaces]
  | _ => simp [regPlaces]

/-- A register and its complement have no place in common. -/
theorem regPlaces_complement {u : UReg} (h : hasComplement u = true) :
    (regPlaces u ++ regPlaces (complement u)).Nodup := by
  cases u with
  | sys r => cases r <;> simp_all [regPlaces, hasComplement, complement, complementSReg]
  | _ => simp_all [regPlaces, hasComplement, complement]

/-- A move alone writes no place twice. -/
theorem movePlaces_nodup (s : State) (store bc : Bool) (ax : Word) (u : UReg) (p : CondPair) :
    (movePlaces s store bc ax u p).Nodup := by
  unfold movePlaces loadedRegs storedBoth
  have h1 : ax ≠ ax + 1#32 := by intro h; simp at h
  cases store
  · cases p.cx <;> cases hh : hasComplement u && yRuns s false bc p
    · simp
    · simp [regPlaces_nodup]
    · simp [regPlaces_nodup]
    · simp only [Bool.and_eq_true] at hh
      simpa using regPlaces_complement hh.1
  · simp only [if_true, List.flatMap_nil, List.nil_append]
    cases p.cx <;> cases hasComplement u && yRuns s true false p <;> simp [h1]

/-- A move alone. -/
theorem commit_only_move {s : State} {store bc : Bool} {ax : Word} {u : UReg} {p : CondPair} {ws : List Write}
    (hw : MoveWrites s store bc ax u p ws) : commit s ws = .ok (movedBoth s s store bc ax u p) := by
  rw [commit_of_nodup, hw.1 s rfl]
  rw [hw.2]
  apply movePlaces_nodup

/-- A shifter-immediate operation, a move and a post-modify. -/
theorem commit_shift_move {s : State} {sh : ShiftImm} {store bc : Bool} {ax : Word} {u : UReg} {p : CondPair}
    {ws : List Write} (go : Bool) {k : RegNum} (m : Word) (hw : MoveWrites s store bc ax u p ws) :
    commit s (shiftImmWrites s sh p.cx p.cy ++ ws ++ postmodWrites s go k m) =
      if (shiftPlaces s sh p ++ movePlaces s store bc ax u p ++ postPlaces s go k m).Nodup then
        .ok (postModified s (movedBoth s (shifted s sh p) store bc ax u p) go k m)
      else refuse .doubleWrite := by
  unfold commit
  simp only [List.flatMap_append, hw.2, List.foldl_append, foldl_shiftImmWrites, hw.1 _ (shifted_params s sh _),
    foldl_postmodWrites]
  rfl

/-- A compute, two moves and two post-modifies (Type 1). -/
theorem commit_two_moves {s : State} {c : Compute} {p : CondPair} {st1 bc1 st2 bc2 : Bool} {a1 a2 : Word}
    {u1 u2 : UReg} {w1 w2 : List Write} {k1 k2 : RegNum} (m1 m2 : Word)
    (h1 : MoveWrites s st1 bc1 a1 u1 p w1) (h2 : MoveWrites s st2 bc2 a2 u2 p w2) :
    commit s (computeWrites s c p.cx p.cy ++ w1 ++ w2 ++ postmodWrites s true k1 m1 ++ postmodWrites s true k2 m2) =
      if (computePlaces s c p ++ movePlaces s st1 bc1 a1 u1 p ++ movePlaces s st2 bc2 a2 u2 p ++
          postPlaces s true k1 m1 ++ postPlaces s true k2 m2).Nodup then
        .ok (postModified s (postModified s
          (movedBoth s (movedBoth s (computed s c p) st1 bc1 a1 u1 p) st2 bc2 a2 u2 p) true k1 m1) true k2 m2)
      else refuse .doubleWrite := by
  unfold commit
  simp only [List.flatMap_append, h1.2, h2.2, List.foldl_append, foldl_computeWrites, h1.1 _ (computed_params s c _)]
  rw [h2.1 _ (by rw [movedBoth_params, computed_params]), foldl_postmodWrites, foldl_postmodWrites]
  rfl

/-! ### Moves at a location the map declares long, and at others (20_memory.md R108) -/

theorem partMovable_of_long {s : State} {a : Word} (h : s.region a = .long) (store bc : Bool) (u : UReg)
    (p : CondPair) : partMovable s store bc a u p ↔ pairMovable s false a u p := by
  unfold partMovable
  rw [if_pos h]

theorem partMovable_of_not_long {s : State} {a : Word} (h : s.region a ≠ .long) (store bc : Bool) (u : UReg)
    (p : CondPair) : partMovable s store bc a u p ↔ movableBoth s store bc a u p := by
  unfold partMovable
  rw [if_neg h]

theorem partMoved_of_long {s : State} {a : Word} (h : s.region a = .long) (t : State) (store bc : Bool) (u : UReg)
    (p : CondPair) : partMoved s t store bc a u p = pairMoved s t store a u p := if_pos h

theorem partMoved_of_not_long {s : State} {a : Word} (h : s.region a ≠ .long) (t : State) (store bc : Bool) (u : UReg)
    (p : CondPair) : partMoved s t store bc a u p = movedBoth s t store bc a u p := if_neg h

theorem partPlaces_of_long {s : State} {a : Word} (h : s.region a = .long) (store bc : Bool) (u : UReg)
    (p : CondPair) : partPlaces s store bc a u p = pairPlaces s store a u p := if_pos h

theorem partPlaces_of_not_long {s : State} {a : Word} (h : s.region a ≠ .long) (store bc : Bool) (u : UReg)
    (p : CondPair) : partPlaces s store bc a u p = movePlaces s store bc a u p := if_neg h

end Sys2Proof.Machine
end

