-- ==== Sys2Proof/Laws/Step.lean ====
section
/-! SUPPORT. What the parts of a step around its instruction can answer: the interrupt logic, the choice of the next PC
and the step itself (41_program_flow.md R260, R282; 60_exceptions.md R561 to R563, R575). -/

namespace Sys2Proof.Machine

/-! ### Requests and the timer -/

/-- Latching requests changes only the two halves of IRPTL, by bits that are set, none of an interrupt in service
(R554). -/
theorem latchRequests_eq (s : State) :
    ∃ v w : Word, latchRequests s =
      { s with irptl := s.irptl ||| (v &&& ~~~s.imaskp), hostIrq := s.hostIrq ||| (w &&& ~~~s.imaskp) } := by
  unfold latchRequests arithmeticLatch newRequests
  cases s.params.irq.arithmetic
  · exact ⟨0#32, _, by simp; rfl⟩
  · exact ⟨arithmeticRequests s, _, rfl⟩

/-- The timer changes only TCOUNT and IRPTL, the latter by bits that are set, none of an interrupt in service (R575). -/
theorem tickTimer_eq (s : State) :
    ∃ c w : Word, tickTimer s = { s with tcount := c, irptl := s.irptl ||| (w &&& ~~~s.imaskp) } := by
  have same : ∀ c : Word, ({ s with tcount := c } : State) =
      { s with tcount := c, irptl := s.irptl ||| (0#32 &&& ~~~s.imaskp) } := by
    intro c
    simp
  unfold tickTimer newRequests
  cases timen s.mode2
  · exact ⟨s.tcount, 0#32, by simp⟩
  · cases s.params.timer
    · cases Config.freeBit .timerLatch s.clock
      · exact ⟨(Config.freeWord .timerCount s.clock).extractLsb' 0 32, 0#32, by simp⟩
      · exact ⟨(Config.freeWord .timerCount s.clock).extractLsb' 0 32, timerBits, by simp⟩
    · by_cases h : s.tcount = 0#32
      · exact ⟨s.tperiod, timerBits, by simp [h]⟩
      · exact ⟨s.tcount - 1#32, 0#32, by simp [h]⟩

/-! ### Interrupts -/

/-- Sampling either takes the lowest qualifying interrupt or changes only the count of points it was let pass (R561). -/
theorem sampleInterrupts_eq_ok {s t : State} (h : sampleInterrupts s = .ok t) :
    (∃ n, t = { s with irqWait := n }) ∨
      ∃ k, s.dbr = none ∧ nextInterrupt s = some k ∧ takeInterrupt { s with irqWait := 0 } k s.pc = .ok t := by
  unfold sampleInterrupts at h
  split at h
  · cases h
    exact .inl ⟨s.irqWait, rfl⟩
  · rename_i hd
    split at h
    · cases h
      exact .inl ⟨0, rfl⟩
    · rename_i k hk
      split at h
      · exact .inr ⟨k, by simpa using hd, hk, h⟩
      · cases h
        exact .inl ⟨s.irqWait + 1, rfl⟩

/-- Returning from an interrupt: what it pops and clears (R278, R563). -/
theorem returnFromInterrupt_eq_ok (s t : State) (a : ProgAddr) :
    returnFromInterrupt s = .ok (a, t) ↔
      ∃ p rest u, s.pcStack = p :: rest ∧ p.addr = a ∧
        whenSet (s.currentInterrupt.any (pushesStatus s)) popSts { s with pcStack := rest } = .ok u ∧
        t = clearInterrupt u := by
  unfold returnFromInterrupt
  simp only [Run.bind_eq_ok, Prod.exists, popPc_eq_ok, Run.pure_eq_ok, Except.ok.injEq, Prod.mk.injEq]
  constructor
  · rintro ⟨b, v, ⟨p, rest, h1, h3, rfl⟩, u, h2, rfl, rfl⟩
    exact ⟨p, rest, u, h1, h3, h2, rfl⟩
  · rintro ⟨p, rest, u, h1, h3, h2, rfl⟩
    exact ⟨a, _, ⟨p, rest, h1, h3, rfl⟩, u, h2, rfl, rfl⟩

/-- Ending the current interrupt changes only the two halves of IRPTL and IMASKP, by bits that are cleared (R266). -/
theorem clearInterrupt_eq (s : State) :
    clearInterrupt s = s ∨
      ∃ k, s.currentInterrupt = some k ∧
        clearInterrupt s =
          { s with
            irptl := setBit s.irptl k false
            hostIrq := setBit s.hostIrq k false
            imaskp := setBit s.imaskp k false } := by
  unfold clearInterrupt
  cases h : s.currentInterrupt with
  | none => exact .inl rfl
  | some k => exact .inr ⟨k, rfl, rfl⟩

/-! ### The next PC (R260) -/

/-- Leaving a loop pops its entries and goes on (R282). -/
theorem leaveLoop_eq_ok (s t : State) :
    leaveLoop s = .ok t ↔
      ∃ e rest a more, s.loops = e :: rest ∧ s.pcStack = a :: more ∧
        t = advance { s with loops := rest, pcStack := more } := by
  unfold leaveLoop
  simp only [Run.bind_eq_ok, abortLoop_eq_ok, Run.pure_eq_ok, Except.ok.injEq]
  constructor
  · rintro ⟨u, ⟨e, rest, a, more, h1, h2, rfl⟩, rfl⟩
    exact ⟨e, rest, a, more, h1, h2, rfl⟩
  · rintro ⟨e, rest, a, more, h1, h2, rfl⟩
    exact ⟨_, ⟨e, rest, a, more, h1, h2, rfl⟩, rfl⟩

/-- Another pass goes to the address on top of the PC stack (R282). -/
theorem repeatLoop_eq_ok (s t : State) :
    repeatLoop s = .ok t ↔ ∃ p more, s.pcStack = p :: more ∧ t = goTo s p.addr := by
  unfold repeatLoop
  split <;> simp_all [refuse, eq_comm]

/-- The end of a loop (R282): left, repeated with one count less, or repeated. -/
theorem loopEnd_eq_ok {s t : State} {e : LoopEntry} {rest : List LoopEntry} (h : loopEnd s e rest = .ok t) :
    leaveLoop s = .ok t ∨ repeatLoop s = .ok t ∨
      repeatLoop { s with loops := { e with count := e.count - 1#32 } :: rest } = .ok t := by
  unfold loopEnd at h
  split at h
  · split at h
    · exact .inl h
    · exact .inr (.inr h)
  · split at h
    · exact .inr (.inl h)
    · split at h
      · exact absurd h (refuse_ne_ok _ _)
      · split at h
        · exact absurd h (refuse_ne_ok _ _)
        · split at h
          · exact .inl h
          · exact .inr (.inl h)

/-- The transfer of a delayed branch (R261, R265). -/
theorem transfer_eq_ok (s t : State) (d : DelayedBranch) :
    transfer s d = .ok t ↔
      ∃ u, whenSet d.loopAbort abortLoop s = .ok u ∧ t = goTo { u with dbr := none } d.target := by
  unfold transfer
  simp only [Run.bind_eq_ok, Run.pure_eq_ok, Except.ok.injEq]
  constructor
  · rintro ⟨u, h, rfl⟩
    exact ⟨u, h, rfl⟩
  · rintro ⟨u, h, rfl⟩
    exact ⟨u, h, rfl⟩

/-- The choice of the next PC: a branch now, a delayed branch begun, a slot counted, a transfer, or straight on with the
loop end (R260). -/
theorem sequence_eq_ok {s t : State} (h : Machine.sequence s = .ok t) :
    (∃ r, s.request = some r ∧ r.delayed = true ∧
      t = advance { s with request := none, dbr := some ⟨r.target, dbSlots, r.loopAbort⟩ }) ∨
    (∃ r, s.request = some r ∧ r.delayed = false ∧ t = goTo { s with request := none } r.target) ∨
    (∃ d, s.request = none ∧ s.dbr = some d ∧ d.left ≤ 1 ∧ transfer s d = .ok t) ∨
    (∃ d, s.request = none ∧ s.dbr = some d ∧ 1 < d.left ∧
      t = advance { s with dbr := some { d with left := d.left - 1 } }) ∨
    (s.request = none ∧ s.dbr = none ∧ fallThrough s = .ok t) := by
  unfold Machine.sequence at h
  split at h
  · rename_i r hr
    split at h
    · cases h
      exact .inl ⟨r, hr, by assumption, rfl⟩
    · rename_i hd
      cases h
      exact .inr (.inl ⟨r, hr, by simpa using hd, rfl⟩)
  · rename_i d hr hd
    split at h
    · exact .inr (.inr (.inl ⟨d, hr, hd, by assumption, h⟩))
    · cases h
      exact .inr (.inr (.inr (.inl ⟨d, hr, hd, by omega, rfl⟩)))
  · rename_i hr hd
    exact .inr (.inr (.inr (.inr ⟨hr, hd, h⟩)))

/-- Straight on: the next address, or the end of the innermost loop (R282). -/
theorem fallThrough_eq_ok {s t : State} (h : fallThrough s = .ok t) :
    t = advance s ∨
      ∃ e rest, s.loops = e :: rest ∧ e.endAddr = s.pc ∧ loopMisplaced s e rest = false ∧
        loopEnd s e rest = .ok t := by
  unfold fallThrough at h
  split at h
  · cases h
    exact .inl rfl
  · rename_i e rest hl
    split at h
    · split at h
      · exact absurd h (refuse_ne_ok _ _)
      · exact .inr ⟨e, rest, hl, by assumption, by simp_all, h⟩
    · cases h
      exact .inl rfl

/-- What `endBelowStart` says: some address can be the loop's first body address, and the end is below all that can
(U22). -/
theorem endBelowStart_eq_true (s : State) (e : LoopEntry) (rest : List LoopEntry) :
    endBelowStart s e rest = true ↔
      firstBodies s e rest ≠ [] ∧ ∀ b ∈ firstBodies s e rest, (e.endAddr - b).toInt < 0 := by
  simp [endBelowStart]

/-- The start its DO pushed, on top of the PC stack, is a loop's only possible first body address (R280). -/
theorem firstBodies_of_start {s : State} {e : LoopEntry} {p : PcEntry} {below : List PcEntry}
    (hs : s.pcStack = p :: below) (hp : p.isStartOf e = true) (rest : List LoopEntry) :
    firstBodies s e rest = [p.addr] := by
  have ho : ownStarts s e rest = [p] := by simp [ownStarts, hasStart, hs, hp]
  have hq : poppedStart s e = [] := by unfold poppedStart; split <;> simp [hasStart, hs, hp]
  simp [firstBodies, ho, hq, hs]

/-- While the start its DO pushed is gone from the PC stack, the first body address that DO gave the loop can be it
(R280). -/
theorem mem_firstBodies_of_popped {s : State} {e : LoopEntry} {d : LoopSetUp} (hm : e.made = some d)
    (hs : hasStart s.pcStack e = false) (rest : List LoopEntry) : d.first ∈ firstBodies s e rest := by
  simp [firstBodies, poppedStart, hm, hs]

/-- Return addresses are no loop's first body address (R602): with nothing else on the PC stack it is the one its DO gave
the loop, and none is known of a loop that PUSH LOOP made. -/
theorem firstBodies_of_calls {s : State} (h : ∀ p ∈ s.pcStack, p.source = .call) (e : LoopEntry)
    (rest : List LoopEntry) : firstBodies s e rest = (e.made.map LoopSetUp.first).toList := by
  have hs : hasStart s.pcStack e = false := by
    simp only [hasStart, List.any_eq_false]
    intro p hp
    unfold PcEntry.isStartOf
    split <;> simp [h p hp]
  have hl : s.pcStack.filter (fun p => p.isLoose s.loops) = [] := by
    simp only [List.filter_eq_nil_iff]
    intro p hp
    simp [PcEntry.isLoose, h p hp]
  have ho : ownStarts s e rest = [] := by simp [ownStarts, hs, hl]
  have hb : (s.pcStack.take 1).filter (fun p => decide (p.source ≠ .call ∧ p.addr ∉ poppedStart s e)) = [] := by
    simp only [List.filter_eq_nil_iff]
    intro p hp
    simp [h p (List.mem_of_mem_take hp)]
  simp only [firstBodies, ho, List.map_nil, List.append_nil, hb]
  unfold poppedStart
  cases e.made <;> simp [hs]

/-- An end is not refused for its place when some address that can be the loop's first body address is at or before it
(R280). -/
theorem endBelowStart_of_mem {s : State} {e : LoopEntry} {rest : List LoopEntry} {b : ProgAddr}
    (hm : b ∈ firstBodies s e rest) (h : 0 ≤ (e.endAddr - b).toInt) : endBelowStart s e rest = false := by
  rw [Bool.eq_false_iff, Ne, endBelowStart_eq_true]
  exact fun ha => absurd (ha.2 b hm) (by omega)

/-- An end is not refused for its place when the loop goes back to an address at or before it that is no return address
(R282). -/
theorem endBelowStart_of_back {s : State} {e : LoopEntry} {p : PcEntry} {below : List PcEntry}
    (hs : s.pcStack = p :: below) (hp : p.source ≠ .call) (h : 0 ≤ (e.endAddr - p.addr).toInt)
    (rest : List LoopEntry) : endBelowStart s e rest = false := by
  rw [Bool.eq_false_iff, Ne, endBelowStart_eq_true]
  rintro ⟨hn, ha⟩
  suffices hm : p.addr ∈ firstBodies s e rest by exact absurd (ha _ hm) (by omega)
  unfold firstBodies at hn ⊢
  generalize poppedStart s e ++ (ownStarts s e rest).map PcEntry.addr = own at hn ⊢
  by_cases ho : own.isEmpty
  · simp [ho] at hn
  · by_cases hm : p.addr ∈ own <;> simp [ho, hs, hp, hm]

/-- What `endMovedHere` says: the instruction kept the depth of the loop stack and wrote the innermost LADDR, which now
describes a counter loop in whose last three places PC stands (U22). -/
theorem endMovedHere_eq_true (s t : State) :
    endMovedHere s t = true ↔
      ∃ e before f after, s.loops = e :: before ∧ t.loops = f :: after ∧ before.length = after.length ∧
        e.laddr ≠ f.laddr ∧ f.term = .lce ∧ nearEnd f s.pc = true := by
  unfold endMovedHere
  cases s.loops <;> cases t.loops <;> simp [and_assoc]

/-- An instruction that leaves the loop stack alone moves no end. -/
theorem endMovedHere_of_loops_eq {s t : State} (h : t.loops = s.loops) : endMovedHere s t = false := by
  unfold endMovedHere
  rw [h]
  cases s.loops <;> simp

/-! ### The step -/

/-- The rest of a step after its instruction. -/
theorem finish_eq_ok (s t u : State) :
    finish s t = .ok u ↔
      endMovedHere s t = false ∧ ∃ v w, Machine.sequence t = .ok v ∧ betweenInstructions (tick v) = .ok w ∧
        u = { w with history := remember t.view s.history, mode1Changed := modeChange s t w } := by
  unfold finish
  cases endMovedHere s t
  · simp only [Bool.false_eq_true, if_false, Run.bind_eq_ok, Run.pure_eq_ok, Except.ok.injEq, true_and]
    constructor
    · rintro ⟨v, h1, w, h2, rfl⟩
      exact ⟨v, w, h1, h2, rfl⟩
    · rintro ⟨v, w, h1, h2, rfl⟩
      exact ⟨v, h1, w, h2, rfl⟩
  · simp [refuse]

/-- A step that answers a next state: idle, or an instruction fetched, executed and followed by the rest of the step. -/
theorem step_eq_next (s t : State) :
    step s = .next t ↔
      (s.idle = true ∧ idleStep s = .ok t) ∨
        (s.idle = false ∧ ∃ i u, fetchAllowed s = .ok i ∧ exec i s = .next u ∧ finish s u = .ok t) := by
  unfold step
  cases s.idle
  · simp only [Bool.false_eq_true, if_false, false_and, false_or, true_and]
    cases hf : fetchAllowed s with
    | error e => cases e <;> simp [Run.outcome]
    | ok i =>
      cases he : exec i s <;> simp [afterExec, he, Run.outcome_eq_next]
  · simp [Run.outcome_eq_next]

end Sys2Proof.Machine
end

