-- ==== Sys2Proof/Tests/Slice0.lean ====
section
/-! SUPPORT. Tests: well-formedness, decoding of words written out from the spec, single steps of the spec's worked
examples, and for each statement with hypotheses a state that meets them. -/

namespace Sys2Proof.Tests

open Sys2Proof Sys2Proof.Machine

/-! ### Well-formedness -/

theorem test_illFormed_refused : WellFormed (.ifCompute .always (.fix2 .add 0 6 3)) = false := by decide

theorem test_wellFormed_accepted : WellFormed (.ifCompute .eq (.fix2 .add 0 6 3)) = true := by decide

/-! ### Decoding

Each word is the one the spec prints for the instruction, or is put together from the opcode table's pattern and the
operand fields, with COND = TRUE in a Type 2 word for a compute alone. -/

/-- The word decodes to the instruction, and the instruction encodes to the word. -/
def reads (p : InstrWord × Instr) : Bool :=
  (match decode p.1 with
    | .ok i => decide (i = p.2)
    | .error _ => false) && decide (encode p.2 = p.1)

/-- All the words read so. -/
def readsAll (l : List (InstrWord × Instr)) : Bool := l.all reads

/-- The word is refused for the reason. -/
def refuses (w : InstrWord) (why : DecodeError) : Bool :=
  match decode w with
  | .ok _ => false
  | .error e => decide (e = why)

theorem test_decode_group1_moves : readsAll
    [(0x287120000000, .dualMove .nop ⟨false, 4, 1, 8⟩ ⟨true, 4, 4, 0⟩),
     (0x30EAFA2C0760, .dualMove (.shift .bset 7 6 0) ⟨true, 0, 3, 5⟩ ⟨true, 3, 7, 4⟩),
     (0x010A00100600, .ifCompute .mv (.satRn .f ⟨false, false⟩ 6)),
     (0x507EBB00263B, .uregMove .always (.fix2 .sub 6 3 11) .dm true 0 1 true false (.sys .astatx)),
     (0x592F038E382E, .uregMove .notSv (.flt2 .clip 8 2 14) .pm true 4 4 false false (.r 7)),
     (0x62BE33040C31, .dregMoveImm .always (.fix2 .and 12 3 1) .dm false 1 6 true 6),
     (0x65523593015C, .dregMoveImm (.flag 0) (.mulFlt 1 5 12) .pm true 2 6 false 11)] = true := by decide

theorem test_decode_group1_registers : readsAll
    [(0x701A1217D026, .uregToUreg .tf (.mulMr .f ⟨true, true, .rounded⟩ 2 6) (.m 4) (.r 0)),
     (0x737FB4000000, .uregToUreg .always .nop .lcntr (.l 7)),
     (0x787E00000000, .swap .always .nop 0 1),
     (0x892480000426, .shiftImmMove .gt (.shift .lshift 4 2 6) .dm ⟨true, 4, 4, 0⟩),
     (0x023008100831, .shiftImm .notSz (.field .fext 8 4 3 1)),
     (0x04768015846C, .modifyReg (.notFlag 2) (.mulRn ⟨true, false, .fractional⟩ 4 6 12) .pm 2 0),
     (0x041EC8000000, .modifyReg .lce .nop .dm 3 1)] = true := by decide

theorem test_decode_group2_jumps : readsAll
    [(0x063E00041000, .jumpAbs .always ⟨false, false, false⟩ 0x041000),
     (0x0748000000A4, .jumpRel .av ⟨false, true, false⟩ 0xA4),
     (0x073E05000002, .jumpRel .always ⟨true, false, true⟩ 2),
     (0x06BE04041000, .callAbs .always true 0x041000),
     (0x07BE00FFFFF0, .callRel .always false 0xFFFFF0),
     (0x083F0002A660, .jumpInd .always ⟨false, false, false⟩ false 4 0 (.fix1 .dec 6 6)),
     (0x08BE8C000000, .callInd .always true false 2 1 .nop),
     (0x0921E2029000, .jumpRel6 .ne ⟨false, false, false⟩ true 0x3C (.fix1 .inc 0 0)),
     (0x09808E02A660, .callRel6 .eq true true 17 (.fix1 .dec 6 6)),
     (0xCC5A03000000, .jumpIndElse .tf 0 0 .nop ⟨false, 6, 1, 6⟩),
     (0xEA21030DACA3, .jumpRelElse .ne 0x20 (.flt2 .floatBy 12 10 3) ⟨false, 5, 0, 6⟩)] = true := by decide

theorem test_decode_group2_returns_loops : readsAll
    [(0x0A0404000000, .rts .le true false false .nop),
     (0x0A100220001F, .rts .sz false true false (.shift .lshift 0 1 15)),
     (0x0A3E01000000, .rts .always false false true .nop),
     (0x0B3E00042651, .rti .always false false (.fix2 .xor 6 5 1)),
     (0x0C0064000005, .doCountImm 100 5), (0x0D0C00000010, .doCountReg (.r 12) 16),
     (0x0E0600000007, .doUntil .ac 7), (0x0E3E00000003, .doUntil .always 3)] = true := by decide

theorem test_decode_group3 : readsAll
    [(0x117200050000, .storeDirect .dm false (.sys .mode1) 0x50000),
     (0x127000489060, .loadDirect .pm false (.sys .ustat1) 0x489060),
     (0xAB6F00000018, .storeIndexed .dm 5 false .tcount 24),
     (0xBA7000000100, .loadIndexed .pm 5 false (.sys .ustat1) 0x100),
     (0x980000004B68, .storeImm .dm 4 0 19304), (0x9CE000001234, .storeImm .pm 6 3 0x1234),
     (0x0F2FFFFFFFFF, .loadImm (.m 15) 0xFFFFFFFF), (0x0F0000000005, .loadImm (.r 0) 5)] = true := by decide

theorem test_decode_group4 : readsAll
    [(0x140400000070, .bitSet .mode2 0x70), (0x142200200000, .bitClr .mode1 0x200000),
     (0x144500000001, .bitTgl .flags 1), (0x148600002000, .bitTst .astatx 0x2000),
     (0x14A00000FFFF, .bitXor .ustat1 0xFFFF), (0x160400000130, .modifyImm .dm 4 304),
     (0x168700008000, .bitrev .dm 7 0x8000), (0x170800000000, .pushPcstk false),
     (0x178000000000, .pushLoop false false false), (0x17A000000000, .pushLoop true false false),
     (0x172000000000, .pushSts false false), (0x174400000000, .popLoop false true false),
     (0x171000000000, .popSts false false), (0x170400000000, .popPcstk false), (0x170600000000, .popPcstk true),
     (0x170200000000, .flushCache), (0x170000000000, .stackNone), (0x000000000000, .nop), (0x008000000000, .idle),
     (0x180400041234, .cjumpAbs 0x041234), (0x184400FFFFFE, .cjumpRel 0xFFFFFE),
     (0x190000000000, .rframe)] = true := by decide

theorem test_decode_compute_none : readsAll
    [(0x013E00000000, .noCompute)] = true := by decide

theorem test_decode_compute_alu_1 : readsAll
    [(0x013E00001123, .addFix 1 2 3), (0x013E00002123, .subFix 1 2 3), (0x013E00005123, .addCi 1 2 3),
     (0x013E00006123, .subCi 1 2 3), (0x013E00009123, .avgFix 1 2 3), (0x013E0000A023, .compFix 2 3),
     (0x013E0000B023, .compuFix 2 3), (0x013E00025120, .incCi 1 2), (0x013E00026120, .decCi 1 2),
     (0x013E00029120, .incFix 1 2), (0x013E0002A120, .decFix 1 2), (0x013E00022120, .negFix 1 2),
     (0x013E00030120, .absFix 1 2), (0x013E00021120, .passFix 1 2), (0x013E00040123, .andFix 1 2 3),
     (0x013E00041123, .orFix 1 2 3), (0x013E00042123, .xorFix 1 2 3), (0x013E00043120, .notFix 1 2),
     (0x013E00061123, .minFix 1 2 3), (0x013E00062123, .maxFix 1 2 3)] = true := by decide

theorem test_decode_compute_alu_2 : readsAll
    [(0x013E00063123, .clipFix 1 2 3), (0x013E00081123, .addFlt 1 2 3), (0x013E00082123, .subFlt 1 2 3),
     (0x013E00091123, .absAddFlt 1 2 3), (0x013E00092123, .absSubFlt 1 2 3), (0x013E00089123, .avgFlt 1 2 3),
     (0x013E0008A023, .compFlt 2 3), (0x013E000A2120, .negFlt 1 2), (0x013E000B0120, .absFlt 1 2),
     (0x013E000A1120, .passFlt 1 2), (0x013E000A5120, .rndFlt 1 2), (0x013E000BD123, .scalb 1 2 3),
     (0x013E000AD120, .mant 1 2), (0x013E000C1120, .logb 1 2), (0x013E000C9120, .fix 1 2),
     (0x013E000D9123, .fixBy 1 2 3), (0x013E000CD120, .trunc 1 2), (0x013E000DD123, .truncBy 1 2 3),
     (0x013E000DA123, .floatBy 1 2 3), (0x013E000CA120, .float 1 2)] = true := by decide

theorem test_decode_compute_alu_3 : readsAll
    [(0x013E000C4120, .recips 1 2), (0x013E000C5120, .rsqrts 1 2), (0x013E000E0123, .copysign 1 2 3),
     (0x013E000E1123, .minFlt 1 2 3), (0x013E000E2123, .maxFlt 1 2 3), (0x013E000E3123, .clipFlt 1 2 3)] = true := by decide

theorem test_decode_compute_multiplier_1 : readsAll
    [(0x013E00158123, .mulRn ⟨true, false, .fractional⟩ 1 2 3),
     (0x013E0015C023, .mulMrf ⟨true, false, .fractional⟩ 2 3),
     (0x013E0015E023, .mulMrb ⟨true, false, .fractional⟩ 2 3),
     (0x013E00198123, .macRnMrf ⟨true, false, .fractional⟩ 1 2 3),
     (0x013E0019A123, .macRnMrb ⟨true, false, .fractional⟩ 1 2 3),
     (0x013E0019C023, .macMrf ⟨true, false, .fractional⟩ 2 3),
     (0x013E0019E023, .macMrb ⟨true, false, .fractional⟩ 2 3),
     (0x013E001D8123, .msuRnMrf ⟨true, false, .fractional⟩ 1 2 3),
     (0x013E001DA123, .msuRnMrb ⟨true, false, .fractional⟩ 1 2 3),
     (0x013E001DC023, .msuMrf ⟨true, false, .fractional⟩ 2 3),
     (0x013E001DE023, .msuMrb ⟨true, false, .fractional⟩ 2 3), (0x013E00109100, .satRnMrf ⟨true, true⟩ 1),
     (0x013E0010B100, .satRnMrb ⟨true, true⟩ 1), (0x013E0010D000, .satMrf ⟨true, true⟩),
     (0x013E0010F000, .satMrb ⟨true, true⟩), (0x013E00119100, .rndRnMrf true 1), (0x013E0011B100, .rndRnMrb true 1),
     (0x013E0011D000, .rndMrf true), (0x013E0011F000, .rndMrb true), (0x013E00114000, .clrMrf)] = true := by decide

theorem test_decode_compute_multiplier_2 : readsAll
    [(0x013E00116000, .clrMrb), (0x013E00130123, .mulFlt 1 2 3)] = true := by decide

theorem test_decode_compute_mr_transfer : readsAll
    [(0x013E00410500, .putMr0f 5), (0x013E00411500, .putMr1f 5), (0x013E00412500, .putMr2f 5),
     (0x013E00414500, .putMr0b 5), (0x013E00415500, .putMr1b 5), (0x013E00416500, .putMr2b 5),
     (0x013E00400500, .getMr0f 5), (0x013E00401500, .getMr1f 5), (0x013E00402500, .getMr2f 5),
     (0x013E00404500, .getMr0b 5), (0x013E00405500, .getMr1b 5), (0x013E00406500, .getMr2b 5)] = true := by decide

theorem test_decode_compute_shifter_1 : readsAll
    [(0x013E00200123, .lshift 1 2 3), (0x013E00220123, .orLshift 1 2 3), (0x013E00204123, .ashift 1 2 3),
     (0x013E00224123, .orAshift 1 2 3), (0x013E00208123, .rot 1 2 3), (0x013E002C4123, .bclr 1 2 3),
     (0x013E002C0123, .bset 1 2 3), (0x013E002C8123, .btgl 1 2 3), (0x013E002CC023, .btst 2 3),
     (0x013E00244123, .fdep 1 2 3), (0x013E00264123, .orFdep 1 2 3), (0x013E0024C123, .fdepSe 1 2 3),
     (0x013E0026C123, .orFdepSe 1 2 3), (0x013E00240123, .fext 1 2 3), (0x013E00248123, .fextSe 1 2 3),
     (0x013E00280120, .exp 1 2), (0x013E00284120, .expEx 1 2), (0x013E00288120, .leftz 1 2),
     (0x013E0028C120, .lefto 1 2), (0x013E00290120, .fpack 1 2)] = true := by decide

theorem test_decode_compute_shifter_2 : readsAll
    [(0x013E00294120, .funpack 1 2)] = true := by decide

theorem test_decode_compute_dual_add_subtract : readsAll
    [(0x013E00076523, .dualFix 5 6 2 3), (0x013E000F6523, .dualFlt 5 6 2 3)] = true := by decide

theorem test_decode_compute_multiplier_alu_1 : readsAll
    [(0x013E0044456C, .mulRnAdd 4 5 ⟨1, 2⟩ ⟨3, 0⟩), (0x013E0045456C, .mulRnSub 4 5 ⟨1, 2⟩ ⟨3, 0⟩),
     (0x013E0046456C, .mulRnAvg 4 5 ⟨1, 2⟩ ⟨3, 0⟩), (0x013E0048056C, .macMrfAdd 5 ⟨1, 2⟩ ⟨3, 0⟩),
     (0x013E0049056C, .macMrfSub 5 ⟨1, 2⟩ ⟨3, 0⟩), (0x013E004A056C, .macMrfAvg 5 ⟨1, 2⟩ ⟨3, 0⟩),
     (0x013E004C456C, .macRnAdd 4 5 ⟨1, 2⟩ ⟨3, 0⟩), (0x013E004D456C, .macRnSub 4 5 ⟨1, 2⟩ ⟨3, 0⟩),
     (0x013E004E456C, .macRnAvg 4 5 ⟨1, 2⟩ ⟨3, 0⟩), (0x013E0050056C, .msuMrfAdd 5 ⟨1, 2⟩ ⟨3, 0⟩),
     (0x013E0051056C, .msuMrfSub 5 ⟨1, 2⟩ ⟨3, 0⟩), (0x013E0052056C, .msuMrfAvg 5 ⟨1, 2⟩ ⟨3, 0⟩),
     (0x013E0054456C, .msuRnAdd 4 5 ⟨1, 2⟩ ⟨3, 0⟩), (0x013E0055456C, .msuRnSub 4 5 ⟨1, 2⟩ ⟨3, 0⟩),
     (0x013E0056456C, .msuRnAvg 4 5 ⟨1, 2⟩ ⟨3, 0⟩), (0x013E0058456C, .fmulAdd 4 5 ⟨1, 2⟩ ⟨3, 0⟩),
     (0x013E0059456C, .fmulSub 4 5 ⟨1, 2⟩ ⟨3, 0⟩), (0x013E005A456C, .fmulFloat 4 5 ⟨1, 2⟩ ⟨3, 0⟩),
     (0x013E005B456C, .fmulFix 4 5 ⟨1, 2⟩ ⟨3, 0⟩), (0x013E005D456C, .fmulAbs 4 5 ⟨1, 2⟩ 3)] = true := by decide

theorem test_decode_compute_multiplier_alu_2 : readsAll
    [(0x013E005E456C, .fmulMax 4 5 ⟨1, 2⟩ ⟨3, 0⟩), (0x013E005F456C, .fmulMin 4 5 ⟨1, 2⟩ ⟨3, 0⟩)] = true := by decide

theorem test_decode_compute_multiplier_dual_add_subtract : readsAll
    [(0x013E0066456C, .mulDualFix 6 4 5 ⟨1, 2⟩ ⟨3, 0⟩), (0x013E0076456C, .mulDualFlt 6 4 5 ⟨1, 2⟩ ⟨3, 0⟩)] = true := by decide

/-- Reserved words are refused by name: two Type 25 words off the table, a push with a pop, code 0x62, a rounded integer
product, an ALU opcode of no operation, a BOP of no operation. -/
theorem test_decode_reserved :
    (refuses 0x180000000000 .reservedType25 && refuses 0x190000000001 .reservedType25 &&
      refuses 0x170C00000000 .pushWithPop && refuses 0x0F6200000000 .reservedUreg &&
      refuses 0x013E00151000 .reservedCompute && refuses 0x013E00003000 .reservedCompute &&
      refuses 0x14C000000000 .reservedBop) = true := by decide

/-! ### Single instructions and steps: the spec's worked examples -/

/-- The next state of an instruction, if it has one. -/
def after (i : Instr) (s : State) : Option State :=
  match exec i s with
  | .next t => some t
  | .fault _ => none
  | .refused _ => none

/-- The next state of a step, if it has one. -/
def stepped (s : State) : Option State :=
  match step s with
  | .next t => some t
  | .fault _ => none
  | .refused _ => none

/-- The reset state with 40-bit values in R1 and R2 and a value in R0, on PEx. -/
def withRegs (r0 r1 r2 : DataWord) : State :=
  let s := State.reset
  { s with x := { s.x with rf := ((s.x.rf.set 0 r0).set 1 r1).set 2 r2 } }

/-- The reset state with MODE1. -/
def inMode (m : Word) : State := { State.reset with mode1 := m }

/-- R0 and ASTATx after an instruction. -/
def r0Astat (i : Instr) (s : State) : Option (DataWord × Word) := (after i s).map fun t => (t.x.rf[0], t.x.astat)

/-- R365: 0x7FFFFFFF + 1 wraps: AN and AV. -/
theorem test_add_wraps :
    r0Astat (.addFix 0 1 2) (withRegs 0 0x7FFFFFFF00 0x100) = some (0x8000000000, 0x6) := by decide

/-- R364: 5 - 3 + CI - 1 with CI = 0: 1, AC. -/
theorem test_subtract_with_borrow :
    r0Astat (.subCi 0 1 2) (withRegs 0 0x500 0x300) = some (0x100, 0x8) := by decide

/-- R366: a compare of 5 and 3 enters a 1 at bit 31 and writes no register. -/
theorem test_compare_accumulates :
    r0Astat (.compFix 1 2) (withRegs 0x77 0x500 0x300) = some (0x77, 0x80000000) := by decide

/-- R384: CLIP of -100 by -16 is -16. -/
theorem test_clip_negative :
    r0Astat (.clipFix 0 1 2) (withRegs 0 0xFFFFFF9C00 0xFFFFFFF000) = some (0xFFFFFFF000, 0x4) := by decide

/-- R405: 1.0 + 2.0 = 3.0, with AF. -/
theorem test_float_add :
    r0Astat (.addFlt 0 1 2) (withRegs 0 0x3F80000000 0x4000000000) = some (0x4040000000, 0x400) := by decide

/-- R454, R54: the fractional product of two least units is below bit 32: MU, and its sticky bit MUS. -/
theorem test_fractional_underflow :
    (after (.mulRn ⟨true, true, .fractional⟩ 0 1 2) (withRegs 0 0x100 0x100)).map
      (fun t => (t.x.rf[0], t.x.astat, t.x.stky)) = some (0, 0x100, 0x100) := by decide

/-- R492: LSHIFT of 0xF000000F by 4: SV. -/
theorem test_lshift_left :
    r0Astat (.lshift 0 1 2) (withRegs 0 0xF000000F00 0x400) = some (0xF000, 0x800) := by decide

/-- R494: ASHIFT of 0x80000000 by -4. -/
theorem test_ashift_right :
    r0Astat (.ashift 0 1 2) (withRegs 0 0x8000000000 0xFFFFFFFC00) = some (0xF800000000, 0) := by decide

/-- R502: FDEP of 14 bits at 13. -/
theorem test_fdep_manual :
    r0Astat (.shiftImm .always (.field .fdep 13 14 0 1)) (withRegs 0 0x3FFF00 0) = some (0x07FFE00000, 0) := by decide

/-- R507: FEXT (SE) of a field of ones. -/
theorem test_fext_sign :
    r0Astat (.shiftImm .always (.field .fextSe 8 4 0 1)) (withRegs 0 0xF0000 0) = some (0xFFFFFFFF00, 0) := by decide

/-- R456: a signed integer product of 3 and -2, its low 32 bits in the register: MN. -/
theorem test_multiply_signed :
    r0Astat (.mulRn ⟨true, true, .integer⟩ 0 1 2) (withRegs 0 0x300 0xFFFFFFFE00) = some (0xFFFFFFFA00, 0x40) := by
  decide

/-- R484: 1.5 * 2.0 = 3.0. -/
theorem test_float_multiply :
    r0Astat (.mulFlt 0 1 2) (withRegs 0 0x3FC0000000 0x4000000000) = some (0x4040000000, 0) := by decide

/-- R315: an immediate store puts the data in the cell at I4 and post-modifies I4 by M0. -/
theorem test_store_immediate :
    ((after (.storeImm .dm 4 0 19304)
        { State.reset with i := State.reset.i.set 4 0x100, m := State.reset.m.set 0 2 }).map
      fun t => (t.mem.readCell 0x100 4, t.i[4])) = some (0x00004B6800000000, 0x102) := by decide

/-- R311, R115: in SIMD mode a store of R1 puts S1 at the next address. -/
theorem test_store_both_elements :
    ((after (.storeDirect .dm false (.r 1) 0x100)
        { inMode 0x00200000 with
          x := (withRegs 0 0x1100 0).x, y := (withRegs 0 0x2200 0).x }).map
      fun t => (t.mem.readCell 0x100 4, t.mem.readCell 0x101 4)) = some (0x0000001100000000, 0x0000002200000000) := by
  decide

/-- R268: a delayed call pushes the address after its two slots. -/
theorem test_delayed_call_pushes :
    ((after (.callAbs .always true 0x041000) { State.reset with pc := 0x040100 }).map
      fun t => (t.pcStack, t.request)) = some ([⟨0x040103, .call⟩], some ⟨0x041000, true, false⟩) := by decide

/-- R280: a counter loop from PC + 1 to PC + 5. -/
theorem test_loop_set_up :
    ((after (.doCountImm 100 5) State.reset).map
      fun t => (t.pcStack.map PcEntry.addr, t.loops.map fun e => (e.endAddr, e.count, e.term))) =
      some ([0x040005], [(0x040009, 100, .lce)]) := by decide

/-- R331: BIT SET MODE2 sets bits 4, 5 and 6. -/
theorem test_bit_set : ((after (.bitSet .mode2 0x70) State.reset).map fun t => t.mode2) = some 0x70 := by decide

/-- R347: CJUMP moves the frame pointers. -/
theorem test_cjump_moves :
    ((after (.cjumpAbs 0x041234)
        { State.reset with i := (State.reset.i.set 6 0x5F00).set 7 0x5EF0 }).map
      fun t => (t.x.rf[2], t.i[6])) = some (0x00005F0000, 0x5EF0) := by decide

/-- R260, R350: a step of NOP goes to the next address. -/
theorem test_step_nop : ((stepped (State.reset.withFetchWord 48 0)).map fun t => t.pc) = some 0x040005 := by decide

/-- R267: a step of JUMP 0x041000 goes there. -/
theorem test_step_jump :
    ((stepped (State.reset.withFetchWord 48 0x063E00041000)).map fun t => t.pc) = some 0x041000 := by decide

/-- R54, R336: MODIFY of I7 past the end of its buffer wraps it and sets CB7S, bit 17 of STKYx. -/
theorem test_modify_wrap_sticky :
    ((after (.modifyImm .dm 7 3)
        { State.reset with
          i := State.reset.i.set 7 0x10E, l := State.reset.l.set 7 16, b := State.reset.b.set 7 0x100 }).map
      fun t => (t.i[7], t.x.stky)) = some (0x101, 0x00020000) := by decide

/-- R420: FIX 1.5 BY 4 is 24. -/
theorem test_fix_by : r0Astat (.fixBy 0 1 2) (withRegs 0 0x3FC0000000 0x400) = some (0x1800, 0x400) := by decide

/-- R419: -0.25 with TRUNC is -1. -/
theorem test_fix_truncates_down :
    ((after (.fix 0 1) { inMode 0x8000 with x := (withRegs 0 0xBE80000000 0).x }).map fun t => t.x.rf[0]) =
      some 0xFFFFFFFF00 := by decide

/-- R414: 1 + 2^-24 is a tie and rounds to the even 1.0; the next odd one rounds up. -/
theorem test_rnd_ties :
    r0Astat (.rndFlt 0 1) (withRegs 0 0x3F80000080 0) = some (0x3F80000000, 0x400) ∧
      r0Astat (.rndFlt 0 1) (withRegs 0 0x3F80000180 0) = some (0x3F80000200, 0x400) := by decide

/-- R415: SCALB 1.0 BY 3 is 8.0. -/
theorem test_scalb : r0Astat (.scalb 0 1 2) (withRegs 0 0x3F80000000 0x300) = some (0x4100000000, 0x400) := by decide

/-- R416, R417: the mantissa of 3.0; the exponent of 0.5. -/
theorem test_mant_logb :
    r0Astat (.mant 0 1) (withRegs 0 0x4040000000 0) = some (0xC000000000, 0x400) ∧
      r0Astat (.logb 0 1) (withRegs 0 0x3F00000000 0) = some (0xFFFFFFFF00, 0x404) := by decide

/-- R423: FLOAT 3 BY -1 is 1.5. -/
theorem test_float_by :
    r0Astat (.floatBy 0 1 2) (withRegs 0 0x300 0xFFFFFFFF00) = some (0x3FC0000000, 0x400) := by decide

/-- R428: MIN(1.0, -2.0). -/
theorem test_min_float :
    r0Astat (.minFlt 0 1 2) (withRegs 0 0x3F80000000 0xC000000000) = some (0xC000000000, 0x404) := by decide

/-- R474: SAT MRF (UI) of 0x1FFFFFFFE; R478: RND of a tie with MR1 even. -/
theorem test_sat_rnd :
    r0Astat (.satRnMrf ⟨false, false⟩ 0)
        { State.reset with x := { State.reset.x with mrf := 0x1FFFFFFFE } } = some (0xFFFFFFFF00, 0) ∧
      r0Astat (.rndRnMrf true 0)
        { State.reset with x := { State.reset.x with mrf := 0x280000000 } } = some (0x200, 0) := by decide

/-- R512: FPACK of 1.0 and of -2.0. -/
theorem test_fpack :
    r0Astat (.fpack 0 1) (withRegs 0 0x3F80000000 0) = some (0x380000, 0) ∧
      r0Astat (.fpack 0 1) (withRegs 0 0xC000000000 0) = some (0xC00000, 0) := by decide

/-- R532: 5 + 3 and 5 - 3, with AC of the subtraction. -/
theorem test_dual_add_subtract :
    ((after (.dualFix 3 4 1 2) (withRegs 0 0x500 0x300)).map fun t => (t.x.rf[3], t.x.rf[4], t.x.astat)) =
      some (0x800, 0x200, 8) := by decide

/-! ### Witnesses: for each statement with hypotheses, states and operands that meet them -/

/-- The reset state with a 48-bit word at PC. -/
def at48 (w : Nat) : State := State.reset.withFetchWord 48 w

/-- The reset state with loop entries and a PC stack. -/
def withStacks (l : List LoopEntry) (pcs : List PcEntry) : State := { State.reset with loops := l, pcStack := pcs }

/-- The reset state with loop entries and a PC stack that PUSH PCSTK made. -/
def inLoops (l : List LoopEntry) (pcs : List ProgAddr) : State := withStacks l (pcs.map (⟨·, .software⟩))

/-- A loop made by the DO at clock 7. -/
def loopTo (a : ProgAddr) (term : Cond) (n : Word) : LoopEntry := ⟨packLaddr a term, n, some ⟨7, 0x040002⟩⟩

/-- The reset state with interrupts latched and enabled. -/
def requested (bits : Word) : State :=
  { State.reset with irptl := bits, imask := bits ||| 3#32, mode1 := 0x1000 }

/-- The reset state with I0 at `k` in a buffer of 16 at 0x100. -/
def ringAt (k : Word) : State :=
  { State.reset with i := State.reset.i.set 0 k, l := State.reset.l.set 0 16, b := State.reset.b.set 0 0x100 }

/-- The instruction has a next state. -/
def runs (i : Instr) (s : State) : Bool := (after i s).isSome

theorem runs_spec {i : Instr} {s : State} (h : runs i s = true) : ∃ t, exec i s = .next t := by
  unfold runs after at h
  cases he : exec i s with
  | next t => exact ⟨t, rfl⟩
  | fault f => rw [he] at h; cases h
  | refused w => rw [he] at h; cases h

theorem stepped_spec {s : State} (h : (stepped s).isSome = true) : ∃ t, step s = .next t := by
  unfold stepped at h
  cases he : step s with
  | next t => exact ⟨t, rfl⟩
  | fault f => rw [he] at h; cases h
  | refused w => rw [he] at h; cases h

/-- A data register can be moved to or from a pair of 32-bit cells in any way. -/
theorem movableBoth_reg (s : State) (store bc : Bool) (a : Word) (n : RegNum) (p : CondPair)
    (h : s.region a = .word32) (h1 : s.region (a + 1#32) = .word32) : movableBoth s store bc a (.r n) p := by
  have one : ∀ (c : Word) (u : UReg), s.region c = .word32 → u = .r n ∨ u = .s n → movable s store c u := by
    intro c u hc hu
    refine ⟨.inl (.inl hc), ?_, ?_⟩
    · rcases hu with rfl | rfl <;> intro hp <;> cases hp
    · cases store <;> rcases hu with rfl | rfl <;> first | rfl | exact ⟨_, rfl⟩
  refine ⟨by simp [h], fun _ => one a _ h (.inl rfl), fun _ _ => one _ _ ?_ (.inr rfl), ?_⟩
  · unfold yPlace
    split
    · exact h
    · exact h1
  · intro hc
    cases hc

/-- The same at a location that is not declared long, as the statements of the moves ask. -/
theorem partMovable_reg (s : State) (store bc : Bool) (a : Word) (n : RegNum) (p : CondPair)
    (h : s.region a = .word32) (h1 : s.region (a + 1#32) = .word32) : partMovable s store bc a (.r n) p := by
  unfold partMovable
  rw [if_neg (by rw [h]; exact Region.noConfusion)]
  exact movableBoth_reg s store bc a n p h h1

/-- A data register can be moved to or from a location the map declares long. -/
theorem partMovable_long (s : State) (store bc : Bool) (a : Word) (n : RegNum) (p : CondPair)
    (hp : s.params.longWord = .neighbourPair) (h : s.region a = .long) (hs : s.simd = true → p.cx = p.cy) :
    partMovable s store bc a (.r n) p := by
  unfold partMovable
  rw [if_pos h]
  exact ⟨hp, by simp [neighbours], by simp, .inl h, hs⟩

theorem witness_FixedArithmetic_truncation :
    truncMode (inMode 0x8000).mode1 = true ∧ truncMode State.reset.mode1 = false := by decide

theorem witness_ComputesRun : (5 : RegNum) ≠ 6 ∧ (4 : RegNum) ≠ 5 ∧ (4 : RegNum) ≠ 6 := by decide

/-- Where it runs and where it does not, with ELSE and without. -/
theorem witness_DoubledDestination :
    ¬ (destRegs (.dualFix 1 1 2 3)).Nodup ∧ evalCond State.reset .always = .ok ⟨true, false⟩ ∧
      evalCond State.reset .eq = .ok ⟨false, false⟩ ∧
      elseElements State.reset ⟨false, false⟩ true = ⟨true, false⟩ ∧
      elseElements State.reset ⟨true, false⟩ true = ⟨false, false⟩ := ⟨by decide, rfl, rfl, rfl, rfl⟩

theorem witness_ParallelUnits : (4 : RegNum) ≠ 5 ∧ (4 : RegNum) ≠ 6 ∧ (5 : RegNum) ≠ 6 := by decide

/-- Two numbers, whose sum and difference are valid: AI is clear. -/
theorem witness_DualAddSubtract :
    (5 : RegNum) ≠ 6 ∧
      (((withRegs 0 0x4040000000 0x3F80000000).x.apply
        (evalCompute (.dualFlt 5 6 1 2) (State.reset.env .x) (withRegs 0 0x4040000000 0x3F80000000).x)).astat.getLsbD 5
          = false) := by decide

theorem witness_NanInNanOut :
    fclass (withRegs 0 0x7FC0000000 0).x.rf[(1 : RegNum)] = .nan ∧
      fclass (withRegs 0 0 0x7F80000001).x.rf[(2 : RegNum)] = .nan ∧ FltOp2.add ≠ .floatBy ∧ FltOp1.neg ≠ .float ∧
      FltOp2.absAdd ∈ [FltOp2.absAdd, .absSub] := by decide

/-- A Normal, a Zero with a fraction (a flushed denormal) and an infinity, in either operand. -/
theorem witness_FloatSignOperations :
    fclass (withRegs 0 0x3F80000000 0).x.rf[(1 : RegNum)] ≠ .nan ∧
      fclass (withRegs 0 0x8000000100 0).x.rf[(1 : RegNum)] ≠ .nan ∧
      fclass (withRegs 0 0xFF80000000 0).x.rf[(1 : RegNum)] ≠ .nan ∧
      fclass (withRegs 0 0 0xFF80000000).x.rf[(2 : RegNum)] ≠ .nan := by decide

/-- Infs of either sign, a Normal, a Zero; sums that are 0 and that are not. -/
theorem witness_FloatSums :
    (fclass 0x7F80000000 = .inf ∧ fclass 0xFF80000000 = .inf) ∧ fclass 0x3F80000000 = .normal ∧
      fclass 0x8000000100 = .zero ∧ floatValue 0x3F80000000 + floatValue 0xBF80000000 = 0 ∧
      floatValue 0x3F80000000 + floatValue 0x8000000100 ≠ 0 ∧ floatValue 0 + floatValue 0x8000000000 = 0 := by
  refine ⟨by decide, by decide, by decide, ?_, ?_, ?_⟩ <;> simp [floatValue]

/-- The last exponent that converts, 157, and the first that overflows, by scale and by operand; saturation on and off;
a magnitude of 2^31 and one below it. -/
theorem witness_FloatToFixed :
    fclass 0x4E80000000 = .normal ∧ ((0x4E80000000 : DataWord).extractLsb' 31 8).toNat = 157 ∧
      fclass 0x4F00000000 = .normal ∧ ((0x4F00000000 : DataWord).extractLsb' 31 8).toNat = 158 ∧
      fclass 0x7F80000000 = .inf ∧ fclass 0x0000000100 = .zero ∧ alusat 0x2000 = true ∧ alusat 0 = false ∧
      (5 : Int).natAbs ≠ 2 ^ 31 := by
  refine ⟨by decide, by decide, by decide, by decide, by decide, by decide, by decide, by decide, ?_⟩
  show 5 ≠ 2 ^ 31
  norm_num

/-- Exponents at which SCALB of 1.0 overflows, stays and underflows; the integers 0 and -1; an Inf and a Zero. -/
theorem witness_FloatScaling :
    fclass 0x3F80000000 = .normal ∧ fclass 0x7F80000000 = .inf ∧ fclass 0x8000000001 = .zero ∧
      (∀ k ∈ [(128 : Int), 127, -126, -127], (((0x3F80000000 : DataWord).extractLsb' 31 8).toNat : Int) - 127 + k = k) ∧
      ((withRegs 0 0xFFFFFFFF00 0).x.fx 1).toInt ≠ 0 ∧ ((withRegs 0 0xFF 0).x.fx 1).toInt = 0 := by decide

/-- Exponents 125 and 126; positive and negative; a Zero and the two Infs. -/
theorem witness_ExponentsAndSeeds :
    (fclass 0x7E00000000 = .normal ∧ fclass 0x7E80000000 = .normal ∧ fclass 0xFE00000000 = .normal) ∧
      (((0x7E00000000 : DataWord).extractLsb' 31 8).toNat : Int) - 127 = 125 ∧
      (((0x7E80000000 : DataWord).extractLsb' 31 8).toNat : Int) - 127 = 126 ∧ fclass 0x8000000000 = .zero ∧
      fclass 0x7F80000000 = .inf ∧ fclass 0xFF80000000 = .inf ∧ (0xFE00000000 : DataWord).getLsbD 39 = true := by
  decide

/-- One operand of each class. -/
theorem witness_FloatMultiply :
    fclass 0x7F80000001 = .nan ∧ fclass 0xFF80000000 = .inf ∧ fclass 0x0000000001 = .zero ∧
      fclass 0x3F80000000 = .normal := by decide

/-- A value halfway between two multiples of 2^32, for the tie clause. -/
theorem witness_MrOperations_tie : (0x80000000#80 : ResultWord).toInt * 2 = 2 ^ 32 := by decide

/-- OR forms: a shifted value of 0 onto 0. -/
theorem witness_ShiftsAndRotate_or : 0#32 = 0#32 → (State.reset.x.fx 0) = 0#32 := by decide

/-- FUNPACK: the greatest and the least denormal fraction. -/
theorem witness_TestsExponentsAndPacking :
    (2 ^ (10 - 0) ≤ (0x7FF#11).toNat ∧ (0x7FF#11).toNat < 2 ^ (11 - 0)) ∧
      2 ^ (10 - 10) ≤ (1#11).toNat ∧ (1#11).toNat < 2 ^ (11 - 10) := by decide

/-- FPACK halfway above the largest number: it overflows whatever the free bit is (R512, U18). -/
theorem test_fpack_tie_overflows :
    (fpackOp { mode1 := 0, e := .x, clock := 0 } 0x43FFF80000).flags.sv = true ∧
      (fpackOp { mode1 := 0, e := .x, clock := 0 } 0x43FFF7FF00).flags.sv = false := by decide

/-- FPACK halfway between 0x3801 and 0x3802: not 0x3801 (R512). -/
theorem test_fpack_tie_odd :
    (fpackOp { mode1 := 0, e := .x, clock := 0 } 0x3F80180000).out.toNat / 2 = 0x1C01 := by
  cases h : Config.freeBit (.fpackTie .x) 0 <;> simp [fpackOp, packBits, packMagnitude, packTie, packSource, h] <;> decide

theorem witness_DecodeEncode : WellFormed (.jumpAbs .always ⟨true, false, false⟩ 0x041000) = true := by decide

/-- A word for each clause, the clauses' own boundary words among them. -/
theorem witness_ReservedWords :
    (0x180400000000#48).extractLsb' 40 8 = 0x18#8 ∧ (0x184400FFFFFF#48).extractLsb' 40 8 = 0x18#8 ∧
      (0x18FFFFFFFFFF#48).extractLsb' 40 8 = 0x18#8 ∧ (0x190000000000#48).extractLsb' 40 8 = 0x19#8 ∧
      (0x19FFFFFFFFFF#48).extractLsb' 40 8 = 0x19#8 ∧ (0x170C00000000#48).extractLsb' 40 8 = 0x17#8 ∧
      (0x170C00000000#48).getLsbD 35 = true ∧ (0x170C00000000#48).getLsbD 34 = true ∧
      (0x170000000000#48).extractLsb' 40 8 = 0x17#8 := by decide

theorem witness_StepRunsDecoded :
    (at48 0).idle = false ∧ fetchAddr (at48 0) ∉ (at48 0).stale ∧ (at48 0).region (fetchAddr (at48 0)) = .word48 ∧
      decode (to48 ((at48 0).mem.readCell (fetchAddr (at48 0)) 6)) = .ok .nop ∧ guard (at48 0) .nop = none ∧
      exec .nop (at48 0) = .next (at48 0) := ⟨rfl, by decide, by decide, rfl, by decide, rfl⟩

/-- A jump in a delay slot, which the guard forbids. -/
theorem witness_StepRunsDecoded_guard :
    let s := { at48 0x063E00041000 with dbr := some ⟨0x041000, 2, false⟩ }
    s.idle = false ∧ fetchAddr s ∉ s.stale ∧ s.region (fetchAddr s) = .word48 ∧
      decode (to48 (s.mem.readCell (fetchAddr s) 6)) = .ok (.jumpAbs .always ⟨false, false, false⟩ 0x041000) ∧
      guard s (.jumpAbs .always ⟨false, false, false⟩ 0x041000) = some .delaySlot :=
  ⟨rfl, by decide, by decide, rfl, by decide⟩

/-- POP PCSTK with an empty stack faults; a load of PX is refused. -/
theorem witness_StepRunsDecoded_stops :
    (decode (to48 ((at48 0x170400000000).mem.readCell (fetchAddr (at48 0x170400000000)) 6)) = .ok (.popPcstk false) ∧
      guard (at48 0x170400000000) (.popPcstk false) = none ∧
      exec (.popPcstk false) (at48 0x170400000000) = .fault (.stackUnderflow .pc)) ∧
    decode (to48 ((at48 0x0F6B00000001).mem.readCell (fetchAddr (at48 0x0F6B00000001)) 6)) = .ok (.loadImm .px 1) ∧
      guard (at48 0x0F6B00000001) (.loadImm .px 1) = none ∧
      exec (.loadImm .px 1) (at48 0x0F6B00000001) = .refused .pxMove :=
  ⟨⟨rfl, by decide, rfl⟩, rfl, by decide, rfl⟩

/-- The reset state with a branch at PC, zeros behind it, a loop that ends elsewhere and the address 0x041000 on the PC
stack. -/
def branchAt (w : Nat) : State := { at48 w with loops := [loopTo 0x040100 .lce 5], pcStack := [⟨0x041000, .call⟩, ⟨0x040090, .call⟩] }

/-- A delayed jump to 0x041000, the same with (LA), a delayed return to it, each before two NOPs: the third step goes to
the target, and (LA) pops with it. -/
theorem witness_DelayedBranchTakesTwoSlots :
    (∀ w ∈ [0x063E04041000, 0x067E04041000, 0x0A3E04000000],
      let s := branchAt w
      s.idle = false ∧ s.dbr = none ∧ s.request = none ∧ s.mode1Changed = 0#32 ∧
        (∀ e ∈ s.loops, e.endAddr ≠ s.pc + 1#24 ∧ e.endAddr ≠ s.pc + 2#24) ∧
        (∀ k, k < 3 → s.region ((s.pc + BitVec.ofNat 24 k).setWidth 32) = .word48 ∧
          (s.pc + BitVec.ofNat 24 k).setWidth 32 ∉ s.stale) ∧
        to48 (s.mem.readCell ((s.pc + 1#24).setWidth 32) 6) = encode .nop ∧
        to48 (s.mem.readCell ((s.pc + 2#24).setWidth 32) 6) = encode .nop) ∧
      encode (.jumpAbs .always ⟨true, false, false⟩ 0x041000) = 0x063E04041000#48 ∧
      encode (.jumpAbs .always ⟨true, true, false⟩ 0x041000) = 0x067E04041000#48 ∧
      encode (.rts .always true false false .nop) = 0x0A3E04000000#48 := by decide

/-- The pop of (LA) comes with the transfer, not with the jump (R261, R265). -/
theorem test_delayed_loop_abort :
    ((stepped (branchAt 0x067E04041000)).bind stepped).map (fun t => t.loops.length) = some 1 ∧
      (((stepped (branchAt 0x067E04041000)).bind stepped).bind stepped).map
        (fun t => (t.pc, t.loops.length, t.pcStack)) = some (0x041000, 0, [⟨0x040090, .call⟩]) := by decide

/-- Counters of 3, 1 (no way back) and 0 (2^32 passes). -/
theorem witness_CounterLoopCounts :
    ∀ n ∈ [3#32, 1#32, 0#32],
      (inLoops [loopTo 0x040009 .lce n] [0x040005]).loops = loopTo 0x040009 .lce n :: [] ∧
        (inLoops [loopTo 0x040009 .lce n] [0x040005]).pcStack = ⟨0x040005, .software⟩ :: [] ∧
        (loopTo 0x040009 .lce n).term = .lce ∧
        (inLoops [loopTo 0x040009 .lce n] [0x040005]).request = none ∧
        (inLoops [loopTo 0x040009 .lce n] [0x040005]).dbr = none ∧
        (∀ f ∈ ([] : List LoopEntry), f.endAddr ≠ (loopTo 0x040009 .lce n).endAddr) ∧
        firstBodies (inLoops [loopTo 0x040009 .lce n] [0x040005]) (loopTo 0x040009 .lce n) [] = [0x040002, 0x040005] ∧
        0 ≤ ((loopTo 0x040009 .lce n).endAddr - 0x040005#24).toInt := by
  intro n _
  refine ⟨rfl, rfl, ?_, rfl, rfl, by simp, rfl, ?_⟩
  · show Cond.ofCode ((packLaddr 0x040009 .lce).extractLsb' 24 5) = .lce
    decide
  · show 0 ≤ ((packLaddr 0x040009 .lce).extractLsb' 0 24 - 0x040005#24).toInt
    decide

/-- The step is refused for the end of a loop. -/
def refusesEnd (s : State) : Bool :=
  match step s with
  | .refused why => decide (why = .loopEnd)
  | _ => false

/-- UNTIL FOREVER; UNTIL EQ with the flag settled at 0 and at 1; UNTIL EQ with the flag just set; a loop of one
instruction; one that ends below its start, and one that shares its end; what can be a start on the PC stack; PEYEN just
changed. -/
theorem witness_ConditionLoopEnds :
    let s (c : Cond) := inLoops [loopTo 0x040004 c 0] [0x040004]
    let one (t : State) := { t with x := { t.x with astat := 1 } }
    let rebuilt : LoopEntry := ⟨packLaddr 0x040004 .eq, 0, none⟩
    (∀ c ∈ [Cond.always, .eq], (loopTo 0x040004 c 0).endAddr = (s c).pc ∧ (s c).request = none ∧
      (s c).dbr = none ∧ (loopTo 0x040004 c 0).term = c ∧ c ≠ .lce ∧
      firstBodies (s c) (loopTo 0x040004 c 0) [] = [0x040002, 0x040004] ∧
      0 ≤ ((loopTo 0x040004 c 0).endAddr - 0x040004#24).toInt) ∧
      (∀ v ∈ (s .eq).history, termHolds .eq v = termHolds .eq (s .eq).view) ∧
      termHolds .eq (one (s .eq)).view = true ∧
      (∃ v ∈ [(s .eq).view], termHolds .eq v ≠ termHolds .eq (one (s .eq)).view) ∧
      firstBodies (inLoops [rebuilt] [0x040005]) rebuilt [] = [0x040005] ∧ (rebuilt.endAddr - 0x040005#24).toInt < 0 ∧
      (PcEntry.mk 0x040002 (.loop 7)).isStartOf (loopTo 0x040004 .eq 0) = true ∧
      (∀ p ∈ [PcEntry.mk 0x040005 .call], p.source = .call) ∧
      hasStart [⟨0x040005, .software⟩] (loopTo 0x040004 .eq 0) = false ∧
      (loopTo 0x040004 .eq 0).made = some ⟨7, 0x040002⟩ ∧ rebuilt.made = none ∧ (s .eq).mode1Changed = 0#32 ∧
      ({ s .eq with mode1Changed := 0x200000 } : State).mode1Changed.getLsbD 21 = true ∧
      (∃ f ∈ [loopTo 0x040004 .lce 7],
        f.endAddr = (loopTo 0x040004 .eq 0).endAddr) := by decide

/-- The end of a loop at 0x040004 whose start its DO pushed (R282, R602, U22): an end below that start is refused, under a
return address too; with the start popped and a later return address in its place the end goes there, also over the start
of a loop that is gone, unless it lies below the address after the DO; with a start that software pushed over it or in its
place the end goes there. -/
theorem test_stale_loop_end :
    let s (pcs : List PcEntry) : State := withStacks [loopTo 0x040004 .lce 3] pcs
    let goesTo (pcs : List PcEntry) (a : ProgAddr) : Prop := (stepped (s pcs)).map (fun t => t.pc) = some a
    refusesEnd (s [⟨0x040006, .loop 7⟩]) = true ∧ refusesEnd (s [⟨0x040080, .call⟩, ⟨0x040006, .loop 7⟩]) = true ∧
      goesTo [⟨0x040080, .call⟩] 0x040080 ∧ goesTo [⟨0x040080, .call⟩, ⟨0x040006, .loop 9⟩] 0x040080 ∧
      refusesEnd (withStacks [⟨packLaddr 0x040004 .lce, 3, some ⟨7, 0x040006⟩⟩] [⟨0x040080, .call⟩]) = true ∧
      goesTo [⟨0x040002, .software⟩] 0x040002 ∧
      goesTo [⟨0x040002, .software⟩, ⟨0x040006, .loop 7⟩] 0x040002 ∧
      goesTo [⟨0x040080, .software⟩, ⟨0x040002, .loop 7⟩] 0x040080 := by
  decide

/-- The end of a loop made by PUSH LOOP (R282, R340, U22): it goes to a start that software pushed and to a return address
that a call pushed; an end below the start is refused, also when an outer loop of the kind has a lower start. -/
theorem test_rebuilt_loop_end :
    let e : LoopEntry := ⟨packLaddr 0x040004 .lce, 3, none⟩
    let goesTo (s : State) (a : ProgAddr) : Prop := (stepped s).map (fun t => t.pc) = some a
    goesTo (inLoops [e] [0x040002]) 0x040002 ∧ goesTo (withStacks [e] [⟨0x040080, .call⟩]) 0x040080 ∧
      goesTo (inLoops [e] [0x040080, 0x040002]) 0x040080 ∧ refusesEnd (inLoops [e] [0x040080]) = true ∧
      refusesEnd (inLoops [e, ⟨packLaddr 0x040100 .lce, 3, none⟩] [0x040080, 0x040002]) = true ∧
      goesTo (withStacks [e, loopTo 0x040100 .lce 3] [⟨0x040002, .loop 7⟩, ⟨0x040080, .software⟩]) 0x040002 := by
  decide

/-- An all-zero COMPUTE does nothing, also with NOT LCE and no loop and right after a change of PEYEN (R223, R612). -/
theorem test_empty_compute :
    let s : State := { at48 0x011E00000000 with mode1Changed := 1#32 <<< 21 }
    (stepped s).map (fun t => t.pc) = some 0x040005 ∧ decode 0x011E00000000#48 = .ok (.ifCompute .lce .nop) := by
  decide

/-- The reset state right after a change of MODE1 bit `k`. -/
def changedBit (k : Nat) : State := { State.reset with mode1Changed := 1#32 <<< k }

/-- An add in a delay slot is allowed; in the last three places of a counter loop, the first and the last of them; each
bit of MODE1 just changed, and none. -/
theorem witness_GuardForbids :
    let s : State := { State.reset with dbr := some ⟨0x041000, 2, false⟩ }
    let l (pc : ProgAddr) : State := { inLoops [loopTo 0x040009 .lce 5] [0x040005] with pc := pc }
    s.dbr ≠ none ∧ guard s (.addFix 0 1 2) = none ∧ (∃ t, exec (.addFix 0 1 2) s = .next t) ∧
      (∃ e ∈ (l 0x040007).loops, e.term = .lce ∧ (l 0x040007).pc + 2#24 = e.endAddr) ∧
      (∃ e ∈ (l 0x040009).loops, e.term = .lce ∧ (l 0x040009).pc = e.endAddr) ∧
      condOf (.ifCompute .lce .nop) = .lce ∧ evalCond (l 0x040009) .always = .ok ⟨true, false⟩ ∧
      hasComplement (.r 0) = true ∧ (ringAt 0x100).l[Dag.dm.reg 0] ≠ 0#32 ∧
      (∀ k ∈ [13, 15, 16, 21, 22, 23, 24], (changedBit k).mode1Changed.getLsbD k = true ∧ (changedBit k).dbr = none ∧
        (∀ e ∈ (changedBit k).loops, e.term ≠ .lce)) ∧
      guard (changedBit 13) (.addFix 0 1 2) = some .modeJustChanged ∧
      guard (changedBit 21) (.ifCompute .eq .nop) = none ∧
      (Instr.mulRnAdd 4 5 ⟨0, 1⟩ ⟨2, 3⟩).compute = .mulAluFix .mul .add 4 5 ⟨0, 1⟩ ⟨2, 3⟩ ∧
      (∃ t, exec (.loadImm .laddr 0x2F040005) (inLoops [loopTo 0x040100 .eq 5] [0x040001]) = .next t) ∧
      (loopTo 0x040005 .lce 5).laddr = 0x2F040005 ∧ (∀ e ∈ State.reset.loops, e.term ≠ .lce) ∧
      ∀ k ∈ [13, 15, 16, 21, 22, 23, 24], State.reset.mode1Changed.getLsbD k = false :=
  ⟨by decide, by decide, runs_spec (by decide), by decide, by decide, rfl, rfl, rfl, by decide, by decide, by decide,
    by decide, rfl, runs_spec (by decide), by decide, by decide, by decide⟩

/-- A write of LADDR that makes the loop a counter loop ending at the next address is refused (U22). -/
theorem test_loop_end_moved_here :
    let s (w : Nat) : State := { at48 w with loops := [loopTo 0x040100 .eq 5], pcStack := [⟨0x040001, .loop 7⟩] }
    refusesEnd (s 0x0F662F040005) = true ∧ (stepped (s 0x0F662F040007)).isSome = true := by decide

/-- An interrupt in service and one that is not; a pair of sticky bits set; a bit the parameter names as outside's. -/
theorem witness_InterruptRequests :
    let s : State := { State.reset with imaskp := 0x100, x := { State.reset.x with stky := 4 } }
    s.imaskp.getLsbD 8 = true ∧ s.imaskp.getLsbD 23 = false ∧ s.x.stky.getLsbD 2 = true ∧
      s.params.irq.external.getLsbD 9 = false ∧ s.params.irq.external.getLsbD 20 = true := by decide

/-- Interrupts 8, which pushes the status stack, and 9, which does not. -/
theorem witness_InterruptEntry :
    (∀ k ∈ [8, 9],
      let s := requested (1#32 <<< k)
      nextInterrupt s = some k ∧ s.params.irq.maxLatency ≤ s.irqWait ∧ s.dbr = none ∧
        s.pcStack.length < s.params.pcDepth ∧ s.sts.length < s.params.stsDepth) ∧
      State.reset.params.irq.pushesStatus.getLsbD 8 = true ∧ State.reset.params.irq.pushesStatus.getLsbD 9 = false := by
  decide

/-- Full stacks, and a pending delayed branch. -/
theorem witness_InterruptEntry_other :
    let full := { requested 0x100 with pcStack := List.replicate 30 ⟨0, .call⟩ }
    let fullSts := { requested 0x100 with sts := List.replicate 15 ⟨0, 0, 0⟩ }
    let slot := { requested 0x100 with dbr := some ⟨0x041000, 1, false⟩ }
    nextInterrupt full = some 8 ∧ full.params.pcDepth ≤ full.pcStack.length ∧ nextInterrupt fullSts = some 8 ∧
      fullSts.pcStack.length < fullSts.params.pcDepth ∧ fullSts.params.stsDepth ≤ fullSts.sts.length ∧
      nextInterrupt slot = some 8 ∧ slot.dbr ≠ none := by decide

/-- Interrupt 8 over interrupt 9 in service. -/
theorem witness_ReturnUndoesEntry :
    ∃ t, (∀ j, j ≤ 8 → ({ requested 0x100 with imaskp := 0x200 } : State).imaskp.getLsbD j = false) ∧
      takeInterrupt { requested 0x100 with imaskp := 0x200 } 8 0x040010 = .ok t := by
  refine ⟨_, ?_, rfl⟩
  decide

/-- The reset state, idle. -/
def asleep (s : State) : State := { s with idle := true }

theorem witness_IdleWaits :
    nextInterrupt (latchRequests (tickTimer (tick (asleep State.reset)))) = none ∧ (asleep State.reset).dbr = none ∧
      (stepped (asleep State.reset)).isSome = true ∧
      nextInterrupt (latchRequests (tickTimer (tick (asleep (requested 0x100))))) = some 8 ∧
      (stepped (asleep (requested 0x100))).isSome = true := by decide

theorem witness_StepKeepsGood : Good (at48 0x170400000000) ∧ Good (at48 0) ∧ ∃ t, step (at48 0) = .next t := by
  refine ⟨?_, ?_, stepped_spec (by decide)⟩ <;>
    exact ⟨by decide, by decide, by decide, by decide, by decide, by decide, by decide⟩

/-- A store of R1 at 0x100, a byte of another cell, and the bytes above a 32-bit cell. -/
theorem witness_MemoryFrame :
    State.reset.mem.wf ∧ (∃ t, exec (.storeDirect .dm false (.r 1) 0x100) State.reset = .next t) ∧
      (0x101#32) ∉ storedCells (.storeDirect .dm false (.r 1) 0x100) State.reset ∧
      (0x100#32) ∈ storedCells (.storeDirect .dm false (.r 1) 0x100) State.reset ∧ cellLanes State.reset 0x100 ≤ 4 :=
  ⟨by decide, runs_spec (by decide), by decide, by decide, by decide⟩

theorem witness_StoresGoStale :
    (∃ t, exec (.storeDirect .dm false (.r 1) 0x100) State.reset = .next t) ∧
      flushes (.storeDirect .dm false (.r 1) 0x100) = false ∧ State.reset.region 0x100 ≠ .device ∧
      flushes .flushCache = true ∧ flushes (.pushPcstk true) = true ∧
      (∃ t, exec (.pushPcstk true) { State.reset with stale := [5] } = .next t) ∧
      ∃ t, exec .flushCache { State.reset with stale := [5] } = .next t :=
  ⟨runs_spec (by decide), by decide, by decide, rfl, rfl, runs_spec (by decide), runs_spec (by decide)⟩

theorem witness_RegisterFrame :
    (∃ t, exec (.addFix 0 1 2) State.reset = .next t) ∧ UReg.r 3 ∉ destinations (.addFix 0 1 2) State.reset ∧
      mrWritten (Instr.addFix 0 1 2).compute ≠ some .f := ⟨runs_spec (by decide), by decide, by decide⟩

theorem witness_UnitFrame :
    (flagMask (.fix2 .add 0 1 2)).getLsbD 6 = false ∧ (0x4#32).getLsbD 2 = true ∧
      (stickyMask (.fix2 .add 0 1 2)).getLsbD 0 = false ∧ (3 : RegNum) ∉ destRegs (.fix2 .add 0 1 2) ∧
      mrWritten (.fix2 .add 0 1 2) ≠ some .f := by decide

/-- A condition that fails and one that holds on both elements. -/
theorem witness_ConditionalForms :
    evalCond State.reset .eq = .ok ⟨false, false⟩ ∧ evalCond (inMode 0x00200000) .ne = .ok ⟨true, true⟩ ∧
      (destRegs (.fix2 .add 0 1 2)).Nodup := ⟨rfl, rfl, by decide⟩

/-- I0 and I8 at 32-bit cells. -/
def pointed : State := { State.reset with i := (State.reset.i.set 0 0x100).set 8 0x200 }

/-- A load of R1 and a store of R2; two loads of R1. -/
theorem witness_DualMove :
    (∀ store n, partMovable pointed store (broadcast pointed 0) pointed.i[(0 : RegNum)] (.r n) (allElements pointed) ∧
      partMovable pointed store (broadcast pointed 8) pointed.i[(8 : RegNum)] (.r n) (allElements pointed)) ∧
      (partPlaces pointed false false 0x100 (.r 1) (allElements pointed) ++
        partPlaces pointed true false 0x200 (.r 2) (allElements pointed) ++ postPlaces pointed true 0 1 ++
        postPlaces pointed true 8 1).Nodup ∧
      ¬ (partPlaces pointed false false 0x100 (.r 1) (allElements pointed) ++
        partPlaces pointed false false 0x200 (.r 1) (allElements pointed)).Nodup :=
  ⟨fun _ _ => ⟨partMovable_reg _ _ _ _ _ _ (by decide) (by decide), partMovable_reg _ _ _ _ _ _ (by decide) (by decide)⟩,
    by decide, by decide⟩

/-- I0 and I8 at one address of a device. -/
def atDevice : State :=
  { State.reset with
    params := { State.reset.params with map := [⟨0, 16, .device⟩] }
    i := (State.reset.i.set 0 3).set 8 3 }

/-- Two stores of one Type 1 word to one address of a device are refused, to two addresses they are made (R222, U4). -/
theorem witness_DualMove_device :
    (atDevice.simd = false ∧ atDevice.i[(0 : RegNum)] = atDevice.i[(8 : RegNum)] ∧
        atDevice.region atDevice.i[(0 : RegNum)] = .device) ∧
      exec (.dualMove .nop ⟨true, 0, 0, 1⟩ ⟨true, 0, 0, 2⟩) atDevice = .refused .doubleWrite ∧
      runs (.dualMove .nop ⟨true, 0, 0, 1⟩ ⟨true, 0, 0, 2⟩) { atDevice with i := atDevice.i.set 8 4 } = true :=
  ⟨by decide, rfl, by decide⟩

/-- I0 at a location the map declares long, I8 at a 32-bit cell. -/
def pointedLong : State :=
  { pointed with params := { pointed.params with map := ⟨0x100, 1, .long⟩ :: pointed.params.map } }

/-- Types 1, 3, 4, 6a and 10 at a long location: R0 and R1 loaded beside a compute of R2, and a compute of the
neighbour. -/
theorem witness_moves_long :
    (∀ store bc n, partMovable pointedLong store bc 0x100 (.r n) ⟨true, false⟩) ∧
      (computePlaces pointedLong (.fix2 .add 2 3 4) ⟨true, false⟩ ++
        partPlaces pointedLong false false 0x100 (.r 1) ⟨true, false⟩ ++ postPlaces pointedLong true 0 1).Nodup ∧
      ¬ (computePlaces pointedLong (.fix2 .add 0 3 4) ⟨true, false⟩ ++
        partPlaces pointedLong false false 0x100 (.r 1) ⟨true, false⟩).Nodup ∧
      partPlaces pointedLong true false 0x100 (.r 1) ⟨true, false⟩ = [.cell 0x100] :=
  ⟨fun _ _ _ => partMovable_long _ _ _ _ _ _ rfl (by decide) (by decide), by decide, by decide, by decide⟩

/-- Types 3, 4 and 6a at I0, alone and with a compute of the loaded register. -/
theorem witness_IndexedMoves :
    evalCond pointed .always = .ok ⟨true, false⟩ ∧ sameDag .dm (.r 1) = false ∧
      (∀ store, partMovable pointed store (broadcast pointed 0) 0x100 (.r 1) ⟨true, false⟩) ∧
      (computePlaces pointed (.fix2 .add 2 3 4) ⟨true, false⟩ ++
        partPlaces pointed false false 0x100 (.r 1) ⟨true, false⟩ ++ postPlaces pointed true 0 1).Nodup ∧
      ¬ (computePlaces pointed (.fix2 .add 1 3 4) ⟨true, false⟩ ++
        partPlaces pointed false false 0x100 (.r 1) ⟨true, false⟩).Nodup ∧
      (shiftPlaces pointed (.shift .lshift 4 2 6) ⟨true, false⟩ ++
        partPlaces pointed false false 0x100 (.r 1) ⟨true, false⟩ ++ postPlaces pointed true 0 1).Nodup ∧
      ¬ (shiftPlaces pointed (.shift .lshift 4 1 6) ⟨true, false⟩ ++
        partPlaces pointed false false 0x100 (.r 1) ⟨true, false⟩).Nodup :=
  ⟨rfl, by decide, fun _ => partMovable_reg _ _ _ _ _ _ (by decide) (by decide), by decide, by decide, by decide, by decide⟩

/-- M4 = R0 on PEx; R1 = R0 on both elements; a compute and a move into R1; a swap. -/
theorem witness_RegisterMoves :
    evalCond State.reset .always = .ok ⟨true, false⟩ ∧ (∃ v, State.reset.readUReg (.r 0) = .ok v) ∧
      State.reset.writeRefusal (.m 4) (valueOf State.reset (.r 0)) = none ∧
      evalCond (inMode 0x00200000) .always = .ok ⟨true, true⟩ ∧
      (∃ v, (inMode 0x00200000).readUReg (complement (.r 0)) = .ok v) ∧
      (inMode 0x00200000).writeRefusal (complement (.r 1)) (valueOf (inMode 0x00200000) (complement (.r 0))) = none ∧
      ¬ (computePlaces State.reset (.fix2 .add 1 3 4) ⟨true, false⟩ ++ regPlaces (.r 1)).Nodup ∧
      (computePlaces State.reset (.fix2 .add 2 3 4) ⟨true, false⟩ ++ [Place.ureg (.r 0), .ureg (.s 1)]).Nodup ∧
      ¬ (computePlaces State.reset (.fix2 .add 0 3 4) ⟨true, false⟩ ++ [Place.ureg (.r 0), .ureg (.s 1)]).Nodup :=
  ⟨rfl, ⟨_, rfl⟩, rfl, rfl, ⟨_, rfl⟩, rfl, by decide, by decide, by decide⟩

/-- Moves of R1; SISD and SIMD mode; a register with a complement. -/
theorem witness_ImmediateMoves :
    (∀ store bc, movableBoth pointed store bc 0x100 (.r 1) (allElements pointed)) ∧ sameDag .dm (.r 1) = false ∧
      plainCell pointed pointed.i[(0 : RegNum)] ∧ plainCell pointed (pointed.i[(0 : RegNum)] + 1#32) ∧
      State.reset.writeRefusal (.r 0) (bus32 5) = none ∧
      (inMode 0x00200000).simd = true ∧ hasComplement (.r 0) = true ∧
      (inMode 0x00200000).writeRefusal (complement (.r 0)) (bus32 5) = none ∧ UReg.pc ∈ [UReg.pc, .faddr, .daddr] :=
  ⟨fun _ _ => movableBoth_reg _ _ _ _ _ _ (by decide) (by decide), by decide, .inl (by decide), .inl (by decide), rfl, rfl,
    rfl, rfl, by decide⟩

/-- The last register of DAG1 and the first of DAG2. -/
theorem witness_SameDagRefused :
    ((7 : RegNum).val < 8 ↔ Dag.dm = .dm) ∧ ((8 : RegNum).val < 8 ↔ Dag.pm = .dm) ∧
      UReg.i 7 ∈ [UReg.i 7, .m 7, .l 7, .b 7] := by decide

/-- R1 at an odd address of a pair, and at a location the map declares long; a compute beside it, and one of the pair;
no parameter. -/
theorem witness_LongWordMoves :
    let s := pointedLong
    neighbours (.r 1) ≠ none ∧ pairReached s true 0x201 ∧ pairReached s false 0x100 ∧
      s.params.longWord = .neighbourPair ∧ evalCond s .always = .ok ⟨true, false⟩ ∧ (s.simd = true → true = false) ∧
      sameDag .dm (.r 1) = false ∧
      (computePlaces s (.fix2 .add 2 3 4) ⟨true, false⟩ ++ pairPlaces s false 0x201 (.r 1) ⟨true, false⟩ ++
        postPlaces s true 0 1).Nodup ∧
      ¬ (computePlaces s (.fix2 .add 0 3 4) ⟨true, false⟩ ++ pairPlaces s false 0x201 (.r 1) ⟨true, false⟩ ++
        postPlaces s true 0 1).Nodup ∧
      s.region s.i[(0 : RegNum)] = .long ∧ evalCond s .eq = .ok ⟨false, false⟩ ∧
      ({ s with params := { s.params with longWord := .absent } } : State).params.longWord = .absent :=
  ⟨by decide, .inr ⟨rfl, by decide, by decide, by decide⟩, .inl (by decide), rfl, rfl, by decide, by decide, by decide,
    by decide, by decide, rfl, rfl⟩

theorem witness_LoadAfterStore :
    State.reset.mem.wf ∧ State.reset.region 0x100 ≠ .absent ∧ State.reset.region 0x100 ≠ .device ∧
      (0x101#32) ≠ 0x100#32 := by decide

/-- The last place with a modifier of the whole length, the first place with one of the whole length back; no buffer; a
condition that holds and one that does not. -/
theorem witness_CircularModify :
    (evalCond State.reset .always = .ok ⟨true, false⟩ ∧ evalCond State.reset .eq = .ok ⟨false, false⟩) ∧
    (ringAt 0x10F).l[(0 : RegNum)] ≠ 0#32 ∧
      (ringAt 0x10F).b[(0 : RegNum)].toNat + (ringAt 0x10F).l[(0 : RegNum)].toNat ≤ 2 ^ 32 ∧
      (ringAt 0x10F).b[(0 : RegNum)].toNat ≤ (ringAt 0x100).i[(0 : RegNum)].toNat ∧
      (ringAt 0x10F).i[(0 : RegNum)].toNat <
        (ringAt 0x10F).b[(0 : RegNum)].toNat + (ringAt 0x10F).l[(0 : RegNum)].toNat ∧
      (0x10#32).toInt.natAbs ≤ (ringAt 0x10F).l[(0 : RegNum)].toNat ∧
      (0xFFFFFFF0#32).toInt.natAbs ≤ (ringAt 0x100).l[(0 : RegNum)].toNat ∧ State.reset.l[(0 : RegNum)] = 0#32 := by
  refine ⟨⟨rfl, rfl⟩, by decide, ?_, ?_, ?_, ?_, ?_, by decide⟩
  · show 0x100 + 0x10 ≤ 2 ^ 32
    norm_num
  · show 0x100 ≤ 0x100
    norm_num
  · show 0x10F < 0x100 + 0x10
    norm_num
  · show 16 ≤ 16
    norm_num
  · show 16 ≤ 16
    norm_num

/-- Taken and not; (LA) with a loop and without; (CI) with an interrupt in service. -/
theorem witness_Jumps :
    evalCond State.reset .always = .ok ⟨true, false⟩ ∧ evalCond State.reset .eq = .ok ⟨false, false⟩ ∧
      (destRegs (.fix1 .dec 6 6)).Nodup ∧ canAbort State.reset ⟨false, false, false⟩ ∧
      canAbort (inLoops [⟨0, 0, none⟩] [0]) ⟨false, true, false⟩ ∧ State.reset.loops = [] ∧
      (inLoops [⟨0, 0, none⟩] []).loops ≠ [] ∧ (inLoops [⟨0, 0, none⟩] []).pcStack = [] ∧ State.reset.imaskp = 0#32 ∧
      (0x300#32).getLsbD 8 = true ∧ (∀ j, j < 8 → (0x300#32).getLsbD j = false) :=
  ⟨rfl, rfl, by decide, by unfold canAbort; decide, by unfold canAbort; decide, by decide, by decide, by decide,
    by decide, by decide, by decide⟩

/-- One place left, and none. -/
theorem witness_Calls :
    evalCond State.reset .always = .ok ⟨true, false⟩ ∧ evalCond State.reset .eq = .ok ⟨false, false⟩ ∧
      (inLoops [] (List.replicate 29 0)).pcStack.length < State.reset.params.pcDepth ∧
      State.reset.params.pcDepth ≤ (inLoops [] (List.replicate 30 0)).pcStack.length := ⟨rfl, rfl, by decide, by decide⟩

/-- Taken and not, the move on the element where the condition is false; a compute of the loaded register. -/
theorem witness_JumpOrMove :
    evalCond pointed .always = .ok ⟨true, false⟩ ∧ evalCond pointed .eq = .ok ⟨false, false⟩ ∧
      (∀ store p, partMovable pointed store (broadcast pointed 0) pointed.i[(0 : RegNum)] (.r 1) p) ∧
      (computePlaces pointed (.fix2 .add 2 3 4) ⟨true, false⟩ ++
        partPlaces pointed false false 0x100 (.r 1) ⟨true, false⟩ ++ postPlaces pointed true 0 1).Nodup ∧
      ¬ (computePlaces pointed (.fix2 .add 1 3 4) ⟨true, false⟩ ++
        partPlaces pointed false false 0x100 (.r 1) ⟨true, false⟩).Nodup :=
  ⟨rfl, rfl, fun _ _ => partMovable_reg _ _ _ _ _ _ (by decide) (by decide), by decide, by decide⟩

/-- A loop that ends at 0x040009. -/
def loop9 (n : Word) : LoopEntry := loopTo 0x040009 .lce n

/-- A return to each of the last three addresses of the loop, to the address before them, and with no entry. -/
theorem witness_Returns :
    evalCond State.reset .always = .ok ⟨true, false⟩ ∧ evalCond State.reset .eq = .ok ⟨false, false⟩ ∧
      (inLoops [loop9 3] [0x040008]).loops.head? = some (loop9 3) ∧
      (inLoops [loop9 3] [0x040008]).pcStack = ⟨0x040008, .software⟩ :: [] ∧ (loop9 3).endAddr = 0x040009 ∧
      ((0x040009#24) = 0x040009#24 ∧ (0x040008#24) + 1#24 = 0x040009#24 ∧ (0x040007#24) + 2#24 = 0x040009#24) ∧
      ¬ ((0x040006#24) = 0x040009#24 ∨ (0x040006#24) + 1#24 = 0x040009#24 ∨ (0x040006#24) + 2#24 = 0x040009#24) ∧
      State.reset.pcStack = [] :=
  ⟨rfl, rfl, rfl, rfl, by decide, by decide, by decide, rfl⟩

/-- None in service; interrupt 8, which pushed the status stack; interrupt 9, which did not. -/
theorem witness_InterruptReturns :
    evalCond State.reset .always = .ok ⟨true, false⟩ ∧ evalCond State.reset .eq = .ok ⟨false, false⟩ ∧
      State.reset.imaskp = 0#32 ∧ (0x100#32).getLsbD 8 = true ∧ (∀ j, j < 8 → (0x100#32).getLsbD j = false) ∧
      State.reset.params.irq.pushesStatus.getLsbD 8 = true ∧ (0x200#32).getLsbD 9 = true ∧
      (∀ j, j < 9 → (0x200#32).getLsbD j = false) ∧ State.reset.params.irq.pushesStatus.getLsbD 9 = false :=
  ⟨rfl, rfl, by decide, by decide, by decide, by decide, by decide, by decide, by decide⟩

/-- A body of one instruction; an end at the set-up, at another loop's end, a set-up in the last three places of a loop;
full stacks. -/
theorem witness_LoopSetUp :
    (∃ v, State.reset.readUReg (.r 12) = .ok v) ∧ (1#24).toInt = 1 ∧ (0#24).toInt ≤ 0 ∧
      (loopTo 0x040009 .eq 0).endAddr = State.reset.pc + 5#24 ∧
      ((loopTo 0x040004 .eq 0).endAddr = State.reset.pc ∧ (loopTo 0x040005 .eq 0).endAddr = State.reset.pc + 1#24 ∧
        (loopTo 0x040006 .eq 0).endAddr = State.reset.pc + 2#24) ∧
      (inLoops (List.replicate 5 (loop9 1)) (List.replicate 29 0)).loops.length < State.reset.params.loopDepth ∧
      State.reset.params.loopDepth ≤ (inLoops (List.replicate 6 (loop9 1)) []).loops.length ∧
      ((loop9 1).endAddr ≠ State.reset.pc + 1#24 ∧ (loop9 1).endAddr ≠ State.reset.pc ∧
        (loop9 1).endAddr ≠ State.reset.pc + 2#24) :=
  ⟨⟨_, rfl⟩, by decide, by decide, by decide, by decide, by decide, by decide, by decide⟩

/-- A flag pin that is an output; a loop and none. -/
theorem witness_Conditions_read :
    (0x10000#32).getLsbD (16 + (0 : Fin 4).val) = true ∧ State.reset.loops = [] ∧
      (inLoops [loop9 1] []).loops = loop9 1 :: [] := by decide

theorem witness_Conditions :
    (∃ t, exec (.compFix 1 2) (withRegs 0 0x500 0x300) = .next t) ∧
      (∃ t, exec (.compFlt 1 2) (withRegs 0 0x3F80000000 0x4000000000) = .next t) ∧
      fclass (withRegs 0 0x3F80000000 0x4000000000).x.rf[(1 : RegNum)] = .normal ∧
      fclass (withRegs 0 0x3F80000000 0x4000000000).x.rf[(2 : RegNum)] = .normal ∧
      fclass (withRegs 0 0x3F80000000 0x4000000000).x.rf[(0 : RegNum)] = .zero :=
  ⟨runs_spec (by decide), runs_spec (by decide), by decide, by decide, by decide⟩

/-- A change that is made, and one that would select an alternate register set. -/
theorem witness_BitInstructions :
    State.reset.writeRefusal (.sys .mode2) (bus32 (State.reset.readSReg .mode2 ||| 0x70)) = none ∧
      State.reset.writeRefusal (.sys .mode1) (bus32 (State.reset.readSReg .mode1 ||| 8)) = some .alternateMode := by
  decide

/-- Stacks with one place left, full stacks, and stacks with one entry. -/
theorem witness_StackInstructions :
    let s (p l t : Nat) : State :=
      { State.reset with
        pcStack := List.replicate p ⟨0, .call⟩, loops := List.replicate l ⟨0, 0, none⟩, sts := List.replicate t ⟨0, 0, 0⟩ }
    ((s 29 5 14).pcStack.length < State.reset.params.pcDepth ∧ (s 29 5 14).loops.length < State.reset.params.loopDepth ∧
      (s 29 5 14).sts.length < State.reset.params.stsDepth) ∧
    (¬ (s 30 6 15).pcStack.length < State.reset.params.pcDepth ∧
      ¬ (s 30 6 15).loops.length < State.reset.params.loopDepth ∧
      ¬ (s 30 6 15).sts.length < State.reset.params.stsDepth) ∧
    (s 1 1 1).pcStack ≠ [] ∧ (s 1 1 1).loops ≠ [] ∧ (s 1 1 1).sts = ⟨0, 0, 0⟩ :: [] ∧ State.reset.pcStack = [] ∧
      State.reset.loops = [] ∧ State.reset.sts = [] := by decide

theorem witness_PlainInstructions :
    plainCell State.reset State.reset.i[(6 : RegNum)] ∧ State.reset.simd = false ∧
      plainCell (inMode 0x00200000) (inMode 0x00200000).i[(6 : RegNum)] ∧
      plainCell (inMode 0x00200000) ((inMode 0x00200000).i[(6 : RegNum)] + 1#32) ∧ (inMode 0x00200000).simd = true :=
  ⟨.inl (by decide), rfl, .inl (by decide), .inl (by decide), rfl⟩

/-- The timer off, and on with counts of 0 and 3. -/
theorem witness_TimerPeriod :
    let s : State := { State.reset with params := { State.reset.params with timer := .steps } }
    s.imaskp = 0#32 ∧ s.params.timer = .steps ∧ s.mode2.getLsbD 5 = false ∧
      ({ s with mode2 := 0x20 } : State).mode2.getLsbD 5 = true ∧ 3 ≤ ({ s with tcount := 3 } : State).tcount.toNat := by
  decide

end Sys2Proof.Tests
end

section
/-! The conditional forms of Type 2 and Type 6b (40_compute_move.md R223, R229): each is its condition, then the writes
of its compute or immediate shift on the elements where the condition holds. -/

namespace Sys2Proof.Machine

/-! ### What the two instructions do -/

/-- R223: with the COMPUTE field all zeros the condition is not evaluated, so a refusal of `evalCond` (NOT LCE with no
loop, U19) does not arise. -/
theorem exec_ifCompute_nop (s : State) (cond : Cond) : exec (.ifCompute cond .nop) s = .next s := rfl

/-- R223: a Type 2 word whose condition is read commits its compute. For the empty compute, which reads no condition,
the commit of no writes is the state itself. -/
theorem exec_ifCompute_of_evalCond {s : State} {cond : Cond} {p : CondPair} (hp : evalCond s cond = .ok p)
    (c : Compute) : exec (.ifCompute cond c) s = (commit s (computeWrites s c p.cx p.cy)).outcome := by
  show execIfCompute cond c s = _
  unfold execIfCompute
  by_cases hc : c = .nop
  · subst hc
    rfl
  · rw [if_neg hc, hp, Run.ok_bind]

/-- R229: a Type 6b word whose condition is read commits its immediate shift. -/
theorem exec_shiftImm_of_evalCond {s : State} {cond : Cond} {p : CondPair} (hp : evalCond s cond = .ok p)
    (sh : ShiftImm) : exec (.shiftImm cond sh) s = (commit s (shiftImmWrites s sh p.cx p.cy)).outcome := by
  show execShiftImm cond sh s = _
  unfold execShiftImm
  rw [hp, Run.ok_bind]

/-! ### An immediate shift with nothing beside it -/

/-- An immediate shift names at most one register, so alone it never writes a place twice. -/
theorem commit_shiftImmWrites (s : State) (sh : ShiftImm) (ex ey : Bool) :
    commit s (shiftImmWrites s sh ex ey) = .ok (shifted s sh ⟨ex, ey⟩) := by
  rw [commit_of_nodup _ _ (shiftImmPlaces_nodup s sh ex ey), foldl_shiftImmWrites]

/-! ### The obligation -/

/-- Settles O40: the empty compute by the equation of its own, the others by what they commit on the elements the
condition selects. -/
theorem conditionalForms : Obligations.ConditionalForms := by
  intro s cond
  refine ⟨exec_ifCompute_nop s cond, fun p hp => ⟨fun c hc => ?compute, fun sh => ?shift⟩⟩
  case compute => rw [exec_ifCompute_of_evalCond hp, commit_computeWrites s c p.cx p.cy hc, Run.outcome_ok]
  case shift => rw [exec_shiftImm_of_evalCond hp, commit_shiftImmWrites, Run.outcome_ok]

end Sys2Proof.Machine
end

section
/-! CJUMP, the two forms of Type 25 (43_misc.md R347, R348): its register transfers, then the request of its branch. -/

namespace Sys2Proof.Machine

/-! ### The transfers -/

/-- The register transfers of CJUMP, in the order the model lists them (R347). -/
def cjumpWrites (s : State) : List Write :=
  .reg (.r 2) (bus32 s.i[6]) :: (if s.simd then [.reg (.s 2) (bus32 s.i[6])] else []) ++ [indexWrite 6 s.i[7]]

/-- The state with the transfers of CJUMP made: every value is read in the state before (R347). -/
def framesMoved (s : State) : State :=
  { s with
    x := { s.x with rf := s.x.rf.set 2 (s.i[6] ++ 0#8) }
    y := if s.simd then { s.y with rf := s.y.rf.set 2 (s.i[6] ++ 0#8) } else s.y
    i := s.i.set 6 s.i[7] }

theorem cjump_eq_commit_bind (s : State) (t : ProgAddr) :
    cjump s t = (commit s (cjumpWrites s) >>= fun s' => pure (requestBranch s' t true false)) := rfl

/-- R2, S2 and I6 are three places, so CJUMP writes none twice (U4). -/
theorem cjumpWrites_places_nodup (s : State) : ((cjumpWrites s).flatMap Write.places).Nodup := by
  unfold cjumpWrites
  cases s.simd <;> simp [Write.places, regPlaces, indexWrite]

/-- The write of S2 is made exactly in SIMD mode; the other two are made in both modes. -/
theorem foldl_cjumpWrites (s : State) : (cjumpWrites s).foldl Write.apply s = framesMoved s := by
  unfold cjumpWrites framesMoved
  cases s.simd <;> simp [Write.apply, indexWrite, State.writeUReg]

theorem commit_cjumpWrites (s : State) : commit s (cjumpWrites s) = .ok (framesMoved s) := by
  rw [commit_of_nodup _ _ (cjumpWrites_places_nodup s), foldl_cjumpWrites]

/-! ### The instructions -/

/-- CJUMP always answers: its transfers, and a delayed branch that aborts no loop. -/
theorem cjump_eq (s : State) (t : ProgAddr) : cjump s t = .ok (requestBranch (framesMoved s) t true false) := by
  rw [cjump_eq_commit_bind, commit_cjumpWrites, Run.ok_bind, Run.pure_eq_ok]

/-- R347: the target is the address in the word. -/
theorem exec_cjumpAbs (s : State) (addr : ProgAddr) :
    exec (.cjumpAbs addr) s = .next (requestBranch (framesMoved s) addr true false) := by
  show Run.outcome (cjump s addr) = _
  rw [cjump_eq, Run.outcome_ok]

/-- R348: the target is PC plus the offset in the word. -/
theorem exec_cjumpRel (s : State) (rel : BitVec 24) :
    exec (.cjumpRel rel) s = .next (requestBranch (framesMoved s) (s.pc + rel) true false) := by
  show Run.outcome (cjump s (s.pc + rel)) = _
  rw [cjump_eq, Run.outcome_ok]

/-! ### The obligation -/

/-- Settles O58: the two forms are one operation with two targets. -/
theorem compilerJumps : Obligations.CompilerJumps := fun s addr => ⟨exec_cjumpAbs s addr, exec_cjumpRel s addr⟩

end Sys2Proof.Machine
end

section
/-! The encoder and the decoder (30_encoding.md): a field placed in a word is read back from its place, computes and
immediate shifts decode to what was encoded, and so does every instruction. -/

-- One proof at a time: each thread that elaborates beside another reserves a gigabyte of the check's memory.
set_option Elab.async false

namespace Sys2Proof

@[simp] theorem regBits_toFin (r : RegNum) : (regBits r).toFin = r := rfl

@[simp] theorem idxBits_toFin (i : Fin 8) : (idxBits i).toFin = i := rfl

@[simp] theorem offBits_toFin (i : Fin 4) : (offBits i).toFin = i := rfl

theorem flagAt_eq {W : Nat} (w : BitVec W) (lo : Nat) : flagAt w lo = bitOf (w.extractLsb' lo 1) := rfl

theorem bitOf_bit (g : Dag) : bitOf g.bit = decide (g = .pm) := by cases g <;> rfl

theorem bitOf_zero : bitOf 0#1 = false := rfl

theorem bitOf_one : bitOf 1#1 = true := rfl

theorem dag_of_bit (g : Dag) : (if g = .pm then Dag.pm else .dm) = g := by cases g <;> rfl

/-- The CU field of a single-function word. -/
theorem single_unit (cu : BitVec 3) (op : BitVec 8) (rn rx ry : RegNum) : (single cu op rn rx ry).extractLsb' 20 3 =
    cu := by
  simp (disch := omega) [single, regs3, BitVec.extractLsb'_or, extract_place_off]

theorem single_op (cu : BitVec 3) (op : BitVec 8) (rn rx ry : RegNum) : (single cu op rn rx ry).extractLsb' 12 8 = op
    := by
  simp (disch := omega) [single, regs3, BitVec.extractLsb'_or, extract_place_off]

theorem single_high (cu : BitVec 3) (op : BitVec 8) (rn rx ry : RegNum) : (single cu op rn rx ry).extractLsb' 16 4 =
    op.extractLsb' 4 4 := by
  simp (disch := omega) [single, regs3, BitVec.extractLsb'_or, extract_place_off, extract_place_in]

theorem single_regs (cu : BitVec 3) (op : BitVec 8) (rn rx ry : RegNum) : regAt (single cu op rn rx ry) 8 = rn ∧
   regAt (single cu op rn rx ry) 4 = rx ∧ regAt (single cu op rn rx ry) 0 = ry := by
  simp (disch := omega) [single, regs3, regAt, BitVec.extractLsb'_or, extract_place_off]

/-- A single-function ALU word decodes by its opcode, unless the opcode is of a dual add and subtract. -/
theorem decode_single_alu (op : BitVec 8) (rn rx ry : RegNum) (h : op.extractLsb' 4 4 ≠ 7#4) (h' : op.extractLsb' 4 4
    ≠ 15#4) :
   decodeCompute (single 0#3 op rn rx ry) = decodeAlu op rn rx ry := by
  obtain ⟨h1, h2, h3⟩ := single_regs 0#3 op rn rx ry
  simp [decodeCompute, single_unit, single_op, single_high, h1, h2, h3, h, h']

theorem decode_single_shift (op : BitVec 8) (rn rx ry : RegNum) :
   decodeCompute (single 2#3 op rn rx ry) = decodeShift op rn rx ry := by
  obtain ⟨h1, h2, h3⟩ := single_regs 2#3 op rn rx ry
  simp [decodeCompute, single_unit, single_op, h1, h2, h3]

/-- A multiply, accumulate or subtract word decodes to its operation. -/
theorem decode_mulWord (cc : BitVec 2) (m : Mod2) (dd bank : BitVec 1) (rn rx ry : RegNum) (h : cc ≠ 0#2) :
    decodeCompute (mulWord cc m dd bank rn rx ry) =
      decodeMulAcc cc.toNat m (bitOf dd) (if bitOf bank then .b else .f) rn rx ry := by
  obtain ⟨xs, ys, f⟩ := m
  have hc : cc.toNat ≠ 0 := fun e => h (BitVec.eq_of_toNat_eq e)
  cases f <;> simp (disch := omega) [decodeCompute, decodeMul, mulWord, regs3, BitVec.extractLsb'_or,
    extract_place_off, regAt, flagAt_eq, MulFormat.f, MulFormat.r, mulFormatOf, bankAt, bitOf_zero, bitOf_one]

/-- R176 and the tables of the compute operations: the COMPUTE field decodes to what was encoded. -/
theorem decodeCompute_encodeCompute (c : Compute) : decodeCompute (encodeCompute c) = .ok c := by
  cases c
  case nop => rfl
  case fix2 op rn rx ry => cases op <;> exact decode_single_alu _ _ _ _ (by decide) (by decide)
  case fix1 op rn rx => cases op <;> exact decode_single_alu _ _ _ _ (by decide) (by decide)
  case flt2 op rn rx ry => cases op <;> exact decode_single_alu _ _ _ _ (by decide) (by decide)
  case flt1 op rn rx => cases op <;> exact decode_single_alu _ _ _ _ (by decide) (by decide)
  case compFix u rx ry => cases u <;> exact decode_single_alu _ _ _ _ (by decide) (by decide)
  case compFlt rx ry => exact decode_single_alu _ _ _ _ (by decide) (by decide)
  case shift op rn rx ry => cases op <;> exact decode_single_shift _ _ _ _
  case btst rx ry => exact decode_single_shift _ _ _ _
  case field op rn rx ry => cases op <;> exact decode_single_shift _ _ _ _
  case shift1 op rn rx => cases op <;> exact decode_single_shift _ _ _ _
  case mulFlt rn rx ry =>
    simp (disch := omega) [encodeCompute, decodeCompute, decodeMul, single, regs3, BitVec.extractLsb'_or,
      extract_place_off, extract_place_in, regAt]
  case clrMr bank => cases bank <;> decide
  case mulRn m rn rx ry => exact decode_mulWord 1#2 m 0#1 0#1 rn rx ry (by decide)
  case mulMr bank m rx ry => cases bank <;> exact decode_mulWord 1#2 m 1#1 _ 0 rx ry (by decide)
  case macRn sub bank m rn rx ry =>
    cases sub <;> cases bank <;> exact decode_mulWord _ m 0#1 _ rn rx ry (by decide)
  case macMr sub bank m rx ry =>
    cases sub <;> cases bank <;> exact decode_mulWord _ m 1#1 _ 0 rx ry (by decide)
  case satRn bank m rn =>
    cases bank <;> simp (disch := omega) [encodeCompute, decodeCompute, decodeMul, BitVec.extractLsb'_or,
      extract_place_off, regAt, flagAt_eq, bankAt, bitOf_zero, bitOf_one, MrBank.bit]
  case satMr bank m =>
    cases bank <;> simp (disch := omega) [encodeCompute, decodeCompute, decodeMul, BitVec.extractLsb'_or,
      extract_place_off, flagAt_eq, bankAt, bitOf_zero, bitOf_one, MrBank.bit]
  case rndRn bank sg rn =>
    cases bank <;> simp (disch := omega) [encodeCompute, decodeCompute, decodeMul, BitVec.extractLsb'_or,
      extract_place_off, extract_place_in, regAt, flagAt_eq, bankAt, bitOf_zero, bitOf_one, MrBank.bit]
  case rndMr bank sg =>
    cases bank <;> simp (disch := omega) [encodeCompute, decodeCompute, decodeMul, BitVec.extractLsb'_or,
      extract_place_off, extract_place_in, flagAt_eq, bankAt, bitOf_zero, bitOf_one, MrBank.bit]
  case putMr bank part rk =>
    cases bank <;> cases part <;> simp (disch := omega) [encodeCompute, decodeCompute, decodeMulAlu,
      decodeMrTransfer, aiOf, aiCode, BitVec.extractLsb'_or, extract_place_off, extract_place_in, regAt, flagAt_eq,
      bitOf_one]
  case getMr bank part rk =>
    cases bank <;> cases part <;> simp (disch := omega) [encodeCompute, decodeCompute, decodeMulAlu,
      decodeMrTransfer, aiOf, aiCode, BitVec.extractLsb'_or, extract_place_off, extract_place_in, regAt, flagAt_eq,
      bitOf_zero]
  case dualFix ra rs rx ry =>
    simp (disch := omega) [encodeCompute, decodeCompute, regs3, BitVec.extractLsb'_or, extract_place_off, regAt]
  case dualFlt ra rs rx ry =>
    simp (disch := omega) [encodeCompute, decodeCompute, regs3, BitVec.extractLsb'_or, extract_place_off, regAt]
  case mulAluFix mop aop rm ra mi ai =>
    cases mop <;> cases aop <;> simp (disch := omega) [encodeCompute, decodeCompute, decodeMulAlu, mfSources,
      BitVec.extractLsb'_or, extract_place_off, extract_place_in, regAt, offAt, MfMulOp.code, MfFixOp.code, mfFixOf]
  case macAluFix sub aop ra mi ai =>
    cases sub <;> cases aop <;> simp (disch := omega) [encodeCompute, decodeCompute, decodeMulAlu, mfSources,
      BitVec.extractLsb'_or, extract_place_off, extract_place_in, regAt, offAt, MfFixOp.code, mfFixOf]
  case mulAluFlt aop rm ra mi ai =>
    cases aop <;> simp (disch := omega) [encodeCompute, decodeCompute, decodeMulAlu, mfSources,
      BitVec.extractLsb'_or, extract_place_off, extract_place_in, regAt, offAt, MfFltOp.code]
  case mulAbsFlt rm ra mi xa =>
    simp (disch := omega) [encodeCompute, decodeCompute, decodeMulAlu, mfSources, BitVec.extractLsb'_or,
      extract_place_off, extract_place_in, regAt, offAt]
  case mulDualFix rs rm ra mi ai =>
    simp (disch := omega) [encodeCompute, decodeCompute, mfSources, BitVec.extractLsb'_or, extract_place_off, regAt,
      offAt]
  case mulDualFlt rs rm ra mi ai =>
    simp (disch := omega) [encodeCompute, decodeCompute, mfSources, BitVec.extractLsb'_or, extract_place_off, regAt,
      offAt]

/-- A field inside a field of zeros is zero. -/
theorem extract_of_extract_zero {W lo n : Nat} {w : BitVec W} (h : w.extractLsb' lo n = 0#n) {lo' m : Nat}
    (h1 : lo ≤ lo') (h2 : lo' + m ≤ lo + n) : w.extractLsb' lo' m = 0#m := by
  ext i hi
  have hb := congrArg (fun v => v.getLsbD (lo' + i - lo)) h
  simp only [BitVec.getLsbD_extractLsb', show lo' + i - lo < n by omega, decide_true, Bool.true_and,
    show lo + (lo' + i - lo) = lo' + i by omega, BitVec.getLsbD_zero] at hb
  simpa using hb

/-- The immediate shift is read back from a word that holds zeros in its fields. -/
theorem decodeShiftImm_or (sh : ShiftImm) {w : InstrWord} (low : w.extractLsb' 0 23 = 0#23)
    (ex : w.extractLsb' 27 4 = 0#4) : decodeShiftImm (w ||| encodeShiftImm sh) = .ok sh := by
  have inside : ∀ lo m, lo + m ≤ 23 → w.extractLsb' lo m = 0#m := fun lo m h =>
    extract_of_extract_zero low (by omega) (by omega)
  cases sh
  case shift op data rn rx =>
    cases op <;> simp (disch := omega) [encodeShiftImm, decodeShiftImm, BitVec.extractLsb'_or, extract_place_off,
      regAt, inside, ShiftImm.shiftOp, ShiftOp.opcode, shiftImmOf]
  case btst data rx =>
    simp (disch := omega) [encodeShiftImm, decodeShiftImm, BitVec.extractLsb'_or, extract_place_off, regAt, inside,
      ShiftImm.shiftOp, shiftImmOf]
  case field op bit6 len6 rn rx =>
    have e : len6.extractLsb' 2 4 ++ len6.extractLsb' 0 2 = len6 := BitVec.extractLsb'_append_extractLsb'
    cases op <;> simp (disch := omega) [encodeShiftImm, decodeShiftImm, BitVec.extractLsb'_or, extract_place_off,
      regAt, inside, ex, ShiftImm.shiftOp, FieldOp.opcode, shiftImmOf, e]
  case shift1 op rn rx =>
    cases op <;> simp (disch := omega) [encodeShiftImm, decodeShiftImm, BitVec.extractLsb'_or, extract_place_off,
      regAt, inside, ShiftImm.shiftOp, ShiftOp1.opcode, shiftImmOf]

/-- An immediate shift word leaves bits 22 to 26 free, the register of a move beside it. -/
theorem encodeShiftImm_reg (sh : ShiftImm) : (encodeShiftImm sh).extractLsb' 22 5 = 0#5 := by
  cases sh <;> simp (disch := omega) [encodeShiftImm, BitVec.extractLsb'_or, extract_place_off]

/-- An immediate shift word leaves the bits above 30 free. -/
theorem encodeShiftImm_high (sh : ShiftImm) : (encodeShiftImm sh).extractLsb' 31 17 = 0#17 := by
  cases sh <;> simp (disch := omega) [encodeShiftImm, BitVec.extractLsb'_or, extract_place_off]

/-- A field that covers a placed value reads as that value placed in the field. -/
theorem extract_place_over {W lo n lo' m : Nat} (v : BitVec n) (h : lo' ≤ lo) (h3 : lo' + m ≤ W) :
    (place W lo v).extractLsb' lo' m = place m (lo - lo') v := by
  ext i hi
  simp only [place, BitVec.getElem_extractLsb', BitVec.getLsbD_shiftLeft, BitVec.getLsbD_setWidth,
    BitVec.getElem_shiftLeft,
    BitVec.getElem_setWidth, show lo' + i < W by omega, decide_true, Bool.true_and]
  by_cases hl : lo' + i < lo
  · simp [hl, show i < lo - lo' by omega]
  · simp [hl, show ¬ i < lo - lo' by omega, show lo' + i - lo = i - (lo - lo') by omega]
    intro _; omega

theorem encode_ofCompute (c : Compute) : encode (Instr.ofCompute c) = encodeAlone c := by
  cases c
  case fix2 op rn rx ry => cases op <;> rfl
  case fix1 op rn rx => cases op <;> rfl
  case flt2 op rn rx ry => cases op <;> rfl
  case flt1 op rn rx => cases op <;> rfl
  case compFix u rx ry => cases u <;> rfl
  case shift op rn rx ry => cases op <;> rfl
  case field op rn rx ry => cases op <;> rfl
  case shift1 op rn rx => cases op <;> rfl
  case mulMr dst m rx ry => cases dst <;> rfl
  case macRn sub src m rn rx ry => cases sub <;> cases src <;> rfl
  case macMr sub acc m rx ry => cases sub <;> cases acc <;> rfl
  case satRn src m rn => cases src <;> rfl
  case satMr acc m => cases acc <;> rfl
  case rndRn src sg rn => cases src <;> rfl
  case rndMr acc sg => cases acc <;> rfl
  case clrMr acc => cases acc <;> rfl
  case putMr bank part rk => cases bank <;> cases part <;> rfl
  case getMr bank part rk => cases bank <;> cases part <;> rfl
  case mulAluFix mop aop rm ra mi ai => cases mop <;> cases aop <;> rfl
  case macAluFix sub aop ra mi ai => cases sub <;> cases aop <;> rfl
  case mulAluFlt aop rm ra mi ai => cases aop <;> rfl
  all_goals rfl

/-- R146: a Type 2 word decodes to its condition and compute. -/
theorem decode_type2 (cond : Cond) (c : Compute) :
    decode (typeWord 1#5 ||| placeCond cond ||| placeCompute c) = .ok (compute2 cond c) := by
  simp (disch := omega) [decode, decodeGroup0, typeWord, placeCond, placeCompute, condAt, computeAt,
    BitVec.extractLsb'_or, extract_place_off, decodeCompute_encodeCompute, bind, Except.bind, pure, Except.pure]

theorem decode_encode_ofCompute (c : Compute) : decode (encode (.ofCompute c)) = .ok (.ofCompute c) := by
  rw [encode_ofCompute, encodeAlone, decode_type2, compute2, if_pos rfl]

/-- R159: bits 44 to 40 of a direct store are the type number, G and D together. -/
theorem decode_storeDirect (g : Dag) (lw : Bool) (u : UReg) (addr : Word) :
    decode (encode (.storeDirect g lw u addr)) = .ok (.storeDirect g lw u addr) := by
  have h4 : place 5 2 4#3 = 16#5 := rfl
  have h1 : place 5 0 1#1 = 1#5 := rfl
  have hd : place 5 1 0#1 = 0#5 := rfl
  have hp : place 5 1 1#1 = 2#5 := rfl
  cases g <;> simp (disch := omega) [encode, decode, decodeGroup0, Dag.bit, placeFlag, uregAt, flagAt_eq,
    BitVec.extractLsb'_or, extract_place_off, extract_place_over, UReg.ofCode_code, h4, h1, hd, hp, bind,
    Except.bind, pure, Except.pure]

theorem decode_loadDirect (g : Dag) (lw : Bool) (u : UReg) (addr : Word) :
    decode (encode (.loadDirect g lw u addr)) = .ok (.loadDirect g lw u addr) := by
  have h4 : place 5 2 4#3 = 16#5 := rfl
  have hd : place 5 1 0#1 = 0#5 := rfl
  have hp : place 5 1 1#1 = 2#5 := rfl
  cases g <;> simp (disch := omega) [encode, decode, decodeGroup0, Dag.bit, placeFlag, uregAt, flagAt_eq,
    BitVec.extractLsb'_or, extract_place_off, extract_place_over, UReg.ofCode_code, h4, hd, hp, bind, Except.bind,
    pure, Except.pure]

/-- Type 6b: the shift fields and COND lie apart. -/
theorem decode_shiftImm (cond : Cond) (sh : ShiftImm) : decode (encode (.shiftImm cond sh)) = .ok (.shiftImm cond sh)
    := by
  have high : ∀ lo m, 31 ≤ lo → lo + m ≤ 48 → (encodeShiftImm sh).extractLsb' lo m = 0#m := fun _ _ h _ =>
    extract_of_extract_zero (encodeShiftImm_high sh) h (by omega)
  have reg : ∀ lo m, 22 ≤ lo → lo + m ≤ 27 → (encodeShiftImm sh).extractLsb' lo m = 0#m := fun _ _ h _ =>
    extract_of_extract_zero (encodeShiftImm_reg sh) h (by omega)
  have hsh : decodeShiftImm (encode (.shiftImm cond sh)) = .ok sh := decodeShiftImm_or sh
    (by simp (disch := omega) [typeWord, placeCond, BitVec.extractLsb'_or, extract_place_off])
    (by simp (disch := omega) [typeWord, placeCond, BitVec.extractLsb'_or, extract_place_off])
  simp only [encode] at hsh
  simp (disch := omega) [encode, decode, decodeGroup0, typeWord, placeCond, condAt, flagAt_eq, BitVec.extractLsb'_or,
    extract_place_off, high, reg, bitOf_zero, bind, Except.bind, pure, Except.pure] at hsh ⊢
  simp [hsh]

/-- Type 6a: the move fields lie in the bits an immediate shift leaves free. -/
theorem decode_shiftImmMove (cond : Cond) (sh : ShiftImm) (g : Dag) (mv : DregMove) :
    decode (encode (.shiftImmMove cond sh g mv)) = .ok (.shiftImmMove cond sh g mv) := by
  have high : ∀ lo m, 31 ≤ lo → lo + m ≤ 48 → (encodeShiftImm sh).extractLsb' lo m = 0#m := fun _ _ h _ =>
    extract_of_extract_zero (encodeShiftImm_high sh) h (by omega)
  have reg : ∀ lo m, 22 ≤ lo → lo + m ≤ 27 → (encodeShiftImm sh).extractLsb' lo m = 0#m := fun _ _ h _ =>
    extract_of_extract_zero (encodeShiftImm_reg sh) h (by omega)
  have hsh : decodeShiftImm (encode (.shiftImmMove cond sh g mv)) = .ok sh := decodeShiftImm_or sh
    (by simp (disch := omega) [placeMove, placeFlag, placeCond, BitVec.extractLsb'_or, extract_place_off])
    (by simp (disch := omega) [placeMove, placeFlag, placeCond, BitVec.extractLsb'_or, extract_place_off])
  simp only [encode] at hsh
  simp (disch := omega) [encode, decode, placeMove, placeFlag, placeCond, condAt, dagAt, idxAt, regAt, flagAt_eq,
    BitVec.extractLsb'_or, extract_place_off, high, reg, bitOf_zero, bitOf_bit, dag_of_bit, bind, Except.bind, pure,
    Except.pure] at hsh ⊢
  simp [hsh]

/-- Settles O21: by the type of the instruction, each of its fields being read back from the place it was put; the
computes alone are all the one Type 2 word. -/
theorem decodeEncode : Obligations.DecodeEncode := by
  intro i hi
  have h := decode_encode_ofCompute i.compute
  cases i
  case dualMove | uregMove | dregMoveImm | swap | modifyReg | jumpInd | jumpRel6 | callInd | callRel6 | jumpIndElse |
    jumpRelElse | rts | rti =>
    clear h
    simp (disch := omega) [encode, decode, decodeGroup0, typeWord, placeCond, placeCompute, placeFlag, placeMods,
      placeMove, condAt, computeAt, uregAt, modsAt, regAt, idxAt, dagAt, flagAt_eq, BitVec.extractLsb'_or,
      extract_place_off, decodeCompute_encodeCompute, UReg.ofCode_code, bitOf_zero, bitOf_one, bitOf_bit, dag_of_bit,
      branchOf, bind, Except.bind, pure, Except.pure]
  case uregToUreg cond c dst src =>
    have hsrc : src.code.extractLsb' 2 5 ++ src.code.extractLsb' 0 2 = src.code :=
      BitVec.extractLsb'_append_extractLsb'
    simp (disch := omega) [encode, decode, placeCond, placeCompute, placeFlag, condAt, computeAt, uregAt, flagAt_eq,
      BitVec.extractLsb'_or, extract_place_off, decodeCompute_encodeCompute, UReg.ofCode_code, bitOf_zero, bitOf_one,
      bind, Except.bind, pure, Except.pure, hsrc]
  case shiftImm cond sh =>
    exact decode_shiftImm cond sh
  case shiftImmMove cond sh g mv =>
    exact decode_shiftImmMove cond sh g mv
  case ifCompute cond c =>
    rw [encode, decode_type2, compute2, if_neg (by simpa [WellFormed, condNamed] using hi)]
  case jumpAbs | jumpRel | callAbs | callRel | doCountImm | doCountReg | doUntil | storeIndexed | loadIndexed |
    storeImm | loadImm =>
    clear h
    simp (disch := omega) [encode, decode, decodeGroup0, typeWord, placeCond, placeFlag, placeMods, condAt, uregAt,
      modsAt, idxAt, dagAt, flagAt_eq, BitVec.extractLsb'_or, extract_place_off, UReg.ofCode_code, bitOf_zero,
      bitOf_one, bitOf_bit, dag_of_bit, branchOf, bind, Except.bind, pure, Except.pure]
  case storeDirect g lw u addr =>
    exact decode_storeDirect g lw u addr
  case loadDirect g lw u addr =>
    exact decode_loadDirect g lw u addr
  case bitSet | bitClr | bitTgl | bitTst | bitXor | modifyImm | bitrev | pushPcstk | pushLoop | pushSts | popLoop |
    flushCache | popSts | popPcstk | stackNone | nop | idle | cjumpAbs | cjumpRel | rframe =>
    clear h
    simp (disch := omega) [encode, decode, decodeGroup0, typeWord, placeFlag, idxAt, dagAt, flagAt_eq,
      BitVec.extractLsb'_or, extract_place_off, bitOf_zero, bitOf_one, bitOf_bit, dag_of_bit, bitOpOf, stackActions]
  all_goals exact h

/-- A field inside a field that is known. -/
theorem extract_of_extract {W lo n : Nat} {w : BitVec W} {v : BitVec n} (h : w.extractLsb' lo n = v) {lo' m : Nat}
    (h1 : lo ≤ lo') (h2 : lo' + m ≤ lo + n) : w.extractLsb' lo' m = v.extractLsb' (lo' - lo) m := by
  subst h
  ext i hi
  simp [show lo' - lo + i < n by omega, show lo + (lo' - lo + i) = lo' + i by omega]

theorem flagAt_eq_getLsbD (w : InstrWord) (k : Nat) : flagAt w k = w.getLsbD k := by
  have h : ∀ v : BitVec 1, bitOf v = v.getLsbD 0 := by decide
  simp [flagAt_eq, h]

/-- Exactly the action bits with a push beside a pop are reserved. -/
theorem stackActions_push_pop (lpu lpo spu spo ppu ppo fc : Bool) :
    (((lpu || spu || ppu) && (lpo || spo || ppo)) = true →
      stackActions lpu lpo spu spo ppu ppo fc = .error .pushWithPop) ∧
    (((lpu || spu || ppu) && (lpo || spo || ppo)) = false → ∃ i, stackActions lpu lpo spu spo ppu ppo fc = .ok i) :=
      by
  unfold stackActions
  refine ⟨fun h => if_pos h, fun h => ?_⟩
  rw [if_neg (by rw [h]; decide)]
  clear h
  cases lpu
  · cases lpo
    · cases spu
      · cases spo
        · cases ppu
          · cases ppo
            · cases fc <;> exact ⟨_, rfl⟩
            · exact ⟨_, rfl⟩
          · exact ⟨_, rfl⟩
        · exact ⟨_, rfl⟩
      · exact ⟨_, rfl⟩
    · exact ⟨_, rfl⟩
  · exact ⟨_, rfl⟩

/-- R168, R338: a Type 20 word decodes by its seven action bits. -/
theorem decode_type20 {w : InstrWord} (h : w.extractLsb' 40 8 = 0x17#8) :
    decode w = stackActions (w.getLsbD 39) (w.getLsbD 38) (w.getLsbD 37) (w.getLsbD 36) (w.getLsbD 35) (w.getLsbD 34)
      (w.getLsbD 33) := by
  simp [decode, decodeGroup0, extract_of_extract h (lo' := 45) (m := 3), extract_of_extract h (lo' := 40) (m := 5),
    flagAt_eq_getLsbD]

theorem append_eq_iff {n m : Nat} {a a' : BitVec n} {b b' : BitVec m} : a ++ b = a' ++ b' ↔ a = a' ∧ b = b' := by
  constructor
  · intro h
    constructor
    · have := congrArg (fun v => v.extractLsb' m n) h
      simpa [BitVec.extractLsb'_append_eq_left] using this
    · have := congrArg (fun v => v.extractLsb' 0 m) h
      simpa [BitVec.extractLsb'_append_eq_right] using this
  · rintro ⟨rfl, rfl⟩; rfl

/-- Settles O22. -/
theorem reservedWords : Obligations.ReservedWords := by
  intro w
  refine ⟨fun h => ?cjump, fun h => ?rframe, fun h => ?stack⟩
  case stack =>
    rw [decode_type20 h]
    exact stackActions_push_pop _ _ _ _ _ _ _
  case cjump =>
    have split : w.extractLsb' 24 24 = 0x18#8 ++ w.extractLsb' 24 16 := by
      rw [← h, BitVec.extractLsb'_append_extractLsb'_eq_extractLsb' (by rfl)]
    have abs : w.extractLsb' 24 24 = 0x180400#24 ↔ w.extractLsb' 24 16 = 0x0400#16 := by
      rw [split, show 0x180400#24 = 0x18#8 ++ 0x0400#16 from rfl, append_eq_iff]; simp
    have rel : w.extractLsb' 24 24 = 0x184400#24 ↔ w.extractLsb' 24 16 = 0x4400#16 := by
      rw [split, show 0x184400#24 = 0x18#8 ++ 0x4400#16 from rfl, append_eq_iff]; simp
    have word : decode w = match (w.extractLsb' 24 16).toNat with
        | 0x0400 => .ok (.cjumpAbs (w.extractLsb' 0 24))
        | 0x4400 => .ok (.cjumpRel (w.extractLsb' 0 24))
        | _ => .error .reservedType25 := by
      simp [decode, decodeGroup0, extract_of_extract h (lo' := 45) (m := 3), extract_of_extract h (lo' := 40) (m :=
        5)] <;> rfl
    rw [word]; simp only [abs, rel]
    generalize w.extractLsb' 24 16 = v
    split
    case h_1 hv => rw [if_pos (BitVec.eq_of_toNat_eq hv)]
    case h_2 hv => rw [BitVec.eq_of_toNat_eq (y := 0x4400#16) hv]; rfl
    case h_3 ha hr => rw [if_neg (fun e => ha (by rw [e]; rfl)), if_neg (fun e => hr (by rw [e]; rfl))]
  case rframe =>
    have split : w = 0x19#8 ++ w.extractLsb' 0 40 := by
      rw [← h]; exact (BitVec.extractLsb'_append_extractLsb' (w := 8) (len := 40) (x := w)).symm
    have zero : w = 0x190000000000#48 ↔ w.extractLsb' 0 40 = 0#40 := by
      conv_lhs => rw [split, show 0x190000000000#48 = 0x19#8 ++ 0#40 from rfl, append_eq_iff]
      simp
    simp [decode, decodeGroup0, extract_of_extract h (lo' := 45) (m := 3), extract_of_extract h (lo' := 40) (m := 5),
      zero]

/-- Settles O23. -/
theorem exampleWords : Obligations.ExampleWords := by
  unfold Obligations.ExampleWords
  decide

end Sys2Proof
end

section
/-! An instruction in two parts: the writes it commits together, all from the state before it, and what it does to the
sequencer after them (20_memory.md R125, 41_program_flow.md R260). Every instruction is its two parts, so a fact about
all instructions is a fact about writes and a fact about these few operations of the sequencer. -/

-- One proof at a time: each thread that elaborates beside another reserves a gigabyte of the check's memory.
set_option Elab.async false

namespace Sys2Proof.Machine

/-! ### The writes -/

/-- The writes an instruction commits, or why it has none. -/
def writesOf (i : Instr) (s : State) : Run (List Write) :=
  match i with
  | .dualMove c dm pm => do
    let wd ← xfer s false s.i[Dag.dm.reg dm.i] (.r dm.reg) dm.store true s.simd (some (Dag.dm.reg dm.i))
    let wp ← xfer s false s.i[Dag.pm.reg pm.i] (.r pm.reg) pm.store true s.simd (some (Dag.pm.reg pm.i))
    pure (computeWrites s c true s.simd ++ wd ++ wp ++ postmodWrites s true (Dag.dm.reg dm.i) (modifier s .dm dm.m) ++
      postmodWrites s true (Dag.pm.reg pm.i) (modifier s .pm pm.m))
  | .ifCompute cond c =>
    if c = .nop then pure []
    else do
      let p ← evalCond s cond
      pure (computeWrites s c p.cx p.cy)
  | .uregMove cond c g post i m store long u =>
    if sameDag g u then refuse .sameDag
    else do
      let p ← evalCond s cond
      let w ← xfer s long (indexAddr s post (g.reg i) (modifier s g m)) u store p.cx p.cy (some (g.reg i))
      pure (computeWrites s c p.cx p.cy ++ w ++ postmodWrites s (post && (p.cx || p.cy)) (g.reg i) (modifier s g m))
  | .dregMoveImm cond c g post i data store reg => do
    let p ← evalCond s cond
    let w ← xfer s false (indexAddr s post (g.reg i) (data.signExtend 32)) (.r reg) store p.cx p.cy (some (g.reg i))
    pure (computeWrites s c p.cx p.cy ++ w ++ postmodWrites s (post && (p.cx || p.cy)) (g.reg i) (data.signExtend 32))
  | .uregToUreg cond c dst src => do
    let p ← evalCond s cond
    let w ← uregTransfer s p dst src
    pure (computeWrites s c p.cx p.cy ++ w)
  | .swap cond c xreg yreg => do
    let p ← evalCond s cond
    pure (computeWrites s c p.cx p.cy ++ swapWrites s (takes s p) xreg yreg)
  | .shiftImmMove cond sh g mv => do
    let p ← evalCond s cond
    let w ← xfer s false s.i[g.reg mv.i] (.r mv.reg) mv.store p.cx p.cy (some (g.reg mv.i))
    pure (shiftImmWrites s sh p.cx p.cy ++ w ++ postmodWrites s (p.cx || p.cy) (g.reg mv.i) (modifier s g mv.m))
  | .shiftImm cond sh => do
    let p ← evalCond s cond
    pure (shiftImmWrites s sh p.cx p.cy)
  | .modifyReg cond c g i m => do
    let p ← evalCond s cond
    pure (computeWrites s c p.cx p.cy ++ if p.cx || p.cy then modifyWrites s (g.reg i) (modifier s g m) else [])
  | .jumpAbs cond .. | .jumpRel cond .. | .callAbs cond .. | .callRel cond .. => do
    let _ ← evalCond s cond
    pure []
  | .jumpInd cond _ els _ _ c | .jumpRel6 cond _ els _ c | .callInd cond _ els _ _ c | .callRel6 cond _ els _ c
  | .rts cond _ els _ c | .rti cond _ els c => do
    let p ← evalCond s cond
    pure (elseWrites s p els c)
  | .jumpIndElse cond _ _ c mv | .jumpRelElse cond _ c mv => do
    let p ← evalCond s cond
    let w ← xfer s false s.i[Dag.dm.reg mv.i] (.r mv.reg) mv.store (!p.cx) (s.simd && !p.cy) (some (Dag.dm.reg mv.i))
    pure (computeWrites s c (!p.cx) (s.simd && !p.cy) ++ w ++
      postmodWrites s (!p.cx || (s.simd && !p.cy)) (Dag.dm.reg mv.i) (modifier s .dm mv.m))
  | .doCountReg u _ => if u = .px then refuse .pxMove else pure []
  | .storeDirect _ long u addr => xfer s long addr u true true s.simd none
  | .loadDirect _ long u addr => xfer s long addr u false true s.simd none
  | .storeIndexed g i long u data =>
    if sameDag g u then refuse .sameDag else xfer s long (s.i[g.reg i] + data) u true true s.simd (some (g.reg i))
  | .loadIndexed g i long u data =>
    if sameDag g u then refuse .sameDag else xfer s long (s.i[g.reg i] + data) u false true s.simd (some (g.reg i))
  | .storeImm g i m data => do
    let wx ← storeCell s s.i[g.reg i] false (bus32 data)
    let wy ← onlyIf s.simd (storeCell s (s.i[g.reg i] + 1#32) false (bus32 data))
    pure (wx ++ wy ++ postmodWrites s true (g.reg i) (modifier s g m))
  | .loadImm u data =>
    if u = .px then refuse .pxMove
    else do
      let wx ← regWrite s u (bus32 data)
      let wy ← onlyIf (s.simd && hasComplement u) (regWrite s (complement u) (bus32 data))
      pure (wx ++ wy)
  | .bitSet reg data => bitWrites s reg (fun v => v ||| data)
  | .bitClr reg data => bitWrites s reg (fun v => v &&& ~~~data)
  | .bitTgl reg data => bitWrites s reg (fun v => v ^^^ data)
  | .bitTst reg data => pure (testWrites s reg (fun v => decide (v &&& data = data)))
  | .bitXor reg data => pure (testWrites s reg (fun v => decide (v = data)))
  | .modifyImm g i data => pure (modifyWrites s (g.reg i) data)
  | .bitrev g i data => pure (indexWrites (g.reg i) (rev32 (wrap s (g.reg i) data)) (wraps s (g.reg i) data))
  | .cjumpAbs _ | .cjumpRel _ => pure (cjumpWrites s)
  | .rframe => do
    let v ← frameValue s
    pure [indexWrite 7 s.i[6], indexWrite 6 v]
  | i => pure (computeWrites s i.compute true s.simd)
where
  /-- The writes of BIT SET, CLR and TGL. -/
  bitWrites (s : State) (reg : SReg) (f : Word → Word) : Run (List Write) := do
    let wx ← regWrite s (.sys reg) (bus32 (f (s.readSReg reg)))
    let wy ← onlyIf (s.simd && hasComplement (.sys reg))
      (regWrite s (.sys (complementSReg reg)) (bus32 (f (s.readSReg (complementSReg reg)))))
    pure (wx ++ wy)
  /-- The writes of BIT TST and XOR. -/
  testWrites (s : State) (reg : SReg) (test : Word → Bool) : List Write :=
    .reg (.sys .astatx) (bus32 (withBtf s.x.astat (test (s.readSReg reg)))) ::
      if s.simd then [.reg (.sys .astaty) (bus32 (withBtf s.y.astat (test (s.readSReg (complementSReg reg)))))]
      else []
  /-- The register transfers of CJUMP. -/
  cjumpWrites (s : State) : List Write :=
    .reg (.r 2) (bus32 s.i[6]) :: (if s.simd then [.reg (.s 2) (bus32 s.i[6])] else []) ++ [indexWrite 6 s.i[7]]

/-! ### The sequencer's part -/

/-- What an instruction executed at `s` does after its writes, which left `t`. -/
def tailOf (i : Instr) (s t : State) : Run State :=
  match i with
  | .jumpAbs cond mods addr => if takes s (elementsOf s cond) then jumpTo t mods addr else pure t
  | .jumpRel cond mods rel => if takes s (elementsOf s cond) then jumpTo t mods (relTarget s rel) else pure t
  | .callAbs cond delayed addr => if takes s (elementsOf s cond) then callTo t delayed addr else pure t
  | .callRel cond delayed rel => if takes s (elementsOf s cond) then callTo t delayed (relTarget s rel) else pure t
  | .jumpInd cond mods _ i m _ => if takes s (elementsOf s cond) then jumpTo t mods (indirectTarget s i m) else pure t
  | .jumpRel6 cond mods _ rel _ => if takes s (elementsOf s cond) then jumpTo t mods (relTarget6 s rel) else pure t
  | .callInd cond delayed _ i m _ =>
    if takes s (elementsOf s cond) then callTo t delayed (indirectTarget s i m) else pure t
  | .callRel6 cond delayed _ rel _ =>
    if takes s (elementsOf s cond) then callTo t delayed (relTarget6 s rel) else pure t
  | .jumpIndElse cond i m _ _ =>
    pure (if takes s (elementsOf s cond) then requestBranch t (indirectTarget s i m) false false else t)
  | .jumpRelElse cond rel _ _ =>
    pure (if takes s (elementsOf s cond) then requestBranch t (relTarget6 s rel) false false else t)
  | .rts cond delayed _ lr _ => if takes s (elementsOf s cond) then returnTo t delayed lr else pure t
  | .rti cond delayed _ _ => if takes s (elementsOf s cond) then interruptReturn t delayed else pure t
  | .doCountImm count rel => setUpLoop { t with lcntr := count.setWidth 32 } .lce rel
  | .doCountReg u rel => do
    let v ← s.readUReg u
    setUpLoop { t with lcntr := to32 v } .lce rel
  | .doUntil term rel => setUpLoop t term rel
  | .pushPcstk fl => do
    let t ← pushFreePc t
    pure (flushIf t fl)
  | .pushLoop sts pcstk fl => do
    let t ← pushFreeLoop t
    let t ← whenSet sts pushSts t
    let t ← whenSet pcstk pushFreePc t
    pure (flushIf t fl)
  | .pushSts pcstk fl => do
    let t ← pushSts t
    let t ← whenSet pcstk pushFreePc t
    pure (flushIf t fl)
  | .popLoop sts pcstk fl => do
    let t ← popLoop t
    let t ← whenSet sts popSts t
    let t ← whenSet pcstk dropPc t
    pure (flushIf t fl)
  | .popSts pcstk fl => do
    let t ← popSts t
    let t ← whenSet pcstk dropPc t
    pure (flushIf t fl)
  | .popPcstk fl => do
    let t ← dropPc t
    pure (flushIf t fl)
  | .flushCache => pure (flushIf t true)
  | .idle => pure { t with idle := true }
  | .cjumpAbs addr => pure (requestBranch t addr true false)
  | .cjumpRel rel => pure (requestBranch t (s.pc + rel) true false)
  | _ => pure t

/-- The instruction from its two parts. -/
def parts (i : Instr) (s : State) : Run State := do
  let ws ← writesOf i s
  let t ← commit s ws
  tailOf i s t

theorem elementsOf_eq {s : State} {c : Cond} {p : CondPair} (h : evalCond s c = .ok p) : elementsOf s c = p := by
  unfold elementsOf; rw [h]

theorem Run.error_bind {α β : Type} (e : Stop) (f : α → Run β) : ((.error e : Run α) >>= f) = .error e := rfl

/-- An instruction with a tail that does nothing. -/
theorem outcome_of_writes {i : Instr} {s : State} {ws : List Write} {o : Host.Outcome State Fault Refusal}
    (hw : writesOf i s = .ok ws) (ht : ∀ t, tailOf i s t = .ok t) (ho : o = Run.outcome (commit s ws)) :
    o = Run.outcome (parts i s) := by
  rw [ho, parts, hw, Run.ok_bind, funext ht]
  exact congrArg Run.outcome (bind_pure _).symm

/-- Every instruction is its writes and then its tail. -/
theorem exec_eq (i : Instr) (s : State) : exec i s = Run.outcome (parts i s) := by
  cases i
  case dualMove =>
    delta exec parts writesOf tailOf
    dsimp only
    simp [execDualMove]
  case dregMoveImm =>
    delta exec parts writesOf tailOf
    dsimp only
    simp [execDregMoveImm]
  case uregToUreg =>
    delta exec parts writesOf tailOf
    dsimp only
    simp [execUregToUreg]
  case swap =>
    delta exec parts writesOf tailOf
    dsimp only
    simp [execSwap]
  case shiftImmMove =>
    delta exec parts writesOf tailOf
    dsimp only
    simp [execShiftImmMove]
  case shiftImm =>
    delta exec parts writesOf tailOf
    dsimp only
    simp [execShiftImm]
  case modifyReg =>
    delta exec parts writesOf tailOf
    dsimp only
    simp [execModifyReg]
  case ifCompute cond c =>
    delta exec parts writesOf tailOf
    dsimp only
    by_cases hc : c = .nop
    · subst hc
      rfl
    · simp [execIfCompute, hc]
  case uregMove cond c g post i m store long u =>
    delta exec parts writesOf tailOf
    dsimp only
    by_cases hg : sameDag g u <;> simp [execUregMove, hg, refuse, Run.error_bind]
  case jumpAbs cond _ _ =>
    delta exec parts writesOf tailOf
    dsimp only
    cases h : evalCond s cond <;> simp [execJumpAbs, elementsOf, h, Run.error_bind, Run.ok_bind, commit_nil]
  case jumpRel cond _ _ =>
    delta exec parts writesOf tailOf
    dsimp only
    cases h : evalCond s cond <;> simp [execJumpRel, elementsOf, h, Run.error_bind, Run.ok_bind, commit_nil]
  case callAbs cond _ _ =>
    delta exec parts writesOf tailOf
    dsimp only
    cases h : evalCond s cond <;> simp [execCallAbs, elementsOf, h, Run.error_bind, Run.ok_bind, commit_nil]
  case callRel cond _ _ =>
    delta exec parts writesOf tailOf
    dsimp only
    cases h : evalCond s cond <;> simp [execCallRel, elementsOf, h, Run.error_bind, Run.ok_bind, commit_nil]
  case jumpInd cond _ _ _ _ _ =>
    delta exec parts writesOf tailOf
    dsimp only
    cases h : evalCond s cond <;> simp [execJumpInd, elementsOf, h, Run.error_bind, Run.ok_bind]
  case jumpRel6 cond _ _ _ _ =>
    delta exec parts writesOf tailOf
    dsimp only
    cases h : evalCond s cond <;> simp [execJumpRel6, elementsOf, h, Run.error_bind, Run.ok_bind]
  case callInd cond _ _ _ _ _ =>
    delta exec parts writesOf tailOf
    dsimp only
    cases h : evalCond s cond <;> simp [execCallInd, elementsOf, h, Run.error_bind, Run.ok_bind]
  case callRel6 cond _ _ _ _ =>
    delta exec parts writesOf tailOf
    dsimp only
    cases h : evalCond s cond <;> simp [execCallRel6, elementsOf, h, Run.error_bind, Run.ok_bind]
  case jumpIndElse cond _ _ _ _ =>
    delta exec parts writesOf tailOf
    dsimp only
    cases h : evalCond s cond <;> simp [execJumpIndElse, elementsOf, h, Run.error_bind, Run.ok_bind, jumpElseMove]
  case jumpRelElse cond _ _ _ =>
    delta exec parts writesOf tailOf
    dsimp only
    cases h : evalCond s cond <;> simp [execJumpRelElse, elementsOf, h, Run.error_bind, Run.ok_bind, jumpElseMove]
  case rts cond _ _ _ _ =>
    delta exec parts writesOf tailOf
    dsimp only
    cases h : evalCond s cond <;> simp [execRts, elementsOf, h, Run.error_bind, Run.ok_bind]
  case rti cond _ _ _ =>
    delta exec parts writesOf tailOf
    dsimp only
    cases h : evalCond s cond <;> simp [execRti, elementsOf, h, Run.error_bind, Run.ok_bind]
  case doCountReg u rel =>
    delta exec parts writesOf tailOf
    dsimp only
    by_cases hu : u = .px <;> simp [execDoCountReg, hu, refuse, Run.error_bind, commit_nil, Run.ok_bind]
  case storeIndexed g i long u data =>
    delta exec parts writesOf tailOf
    dsimp only
    by_cases hg : sameDag g u <;> simp [execStoreIndexed, indexedMove, hg, refuse, Run.error_bind]
  case loadIndexed g i long u data =>
    delta exec parts writesOf tailOf
    dsimp only
    by_cases hg : sameDag g u <;> simp [execLoadIndexed, indexedMove, hg, refuse, Run.error_bind]
  case loadImm u data =>
    delta exec parts writesOf tailOf
    dsimp only
    by_cases hu : u = .px <;> simp [execLoadImm, hu, refuse, Run.error_bind]
  case storeDirect =>
    delta exec parts writesOf tailOf
    dsimp only
    simp [execStoreDirect, directMove]
  case loadDirect =>
    delta exec parts writesOf tailOf
    dsimp only
    simp [execLoadDirect, directMove]
  case storeImm =>
    delta exec parts writesOf tailOf
    dsimp only
    simp [execStoreImm]
  case bitSet =>
    delta exec parts writesOf tailOf
    dsimp only
    simp [execBitSet, bitChange, writesOf.bitWrites]
  case bitClr =>
    delta exec parts writesOf tailOf
    dsimp only
    simp [execBitClr, bitChange, writesOf.bitWrites]
  case bitTgl =>
    delta exec parts writesOf tailOf
    dsimp only
    simp [execBitTgl, bitChange, writesOf.bitWrites]
  case bitTst =>
    delta exec parts writesOf tailOf
    dsimp only
    simp [execBitTst, bitTest, writesOf.testWrites]
  case bitXor =>
    delta exec parts writesOf tailOf
    dsimp only
    simp [execBitXor, bitTest, writesOf.testWrites]
  case modifyImm =>
    delta exec parts writesOf tailOf
    dsimp only
    simp [execModifyImm]
  case bitrev =>
    delta exec parts writesOf tailOf
    dsimp only
    simp [execBitrev]
  case cjumpAbs =>
    delta exec parts writesOf tailOf
    dsimp only
    simp [execCjumpAbs, cjump, writesOf.cjumpWrites]
  case cjumpRel =>
    delta exec parts writesOf tailOf
    dsimp only
    simp [execCjumpRel, cjump, writesOf.cjumpWrites]
  case rframe =>
    delta exec parts writesOf tailOf
    dsimp only
    simp [execRframe]
  case doCountImm | doUntil | pushPcstk | pushLoop | pushSts | popLoop | popSts | popPcstk | flushCache | idle | nop
    | stackNone | noCompute => rfl
  all_goals exact outcome_of_writes rfl (fun _ => rfl) rfl

end Sys2Proof.Machine
end

section
/-! Which universal registers read differently after each change of the state (10_state.md R50 to R59,
40_compute_move.md
R221): a register write is seen by the registers `shownBy` names, a compute by the registers, ASTAT and STKY of its
element. -/

-- One proof at a time: each thread that elaborates beside another reserves a gigabyte of the check's memory.
set_option Elab.async false

namespace Sys2Proof.Machine

theorem get_set_ne {α : Type} (v : Vector α 16) {n k : RegNum} (x : α) (h : k ≠ n) : (v.set n x)[k] = v[k] := by
  have : n.val ≠ k.val := fun e => h (Fin.ext e.symm)
  simp [Vector.getElem_set, this]

/-- A system register written is read by its own name; IMASK also shows IMASKP. -/
theorem readUReg_writeSReg {u : UReg} {r : SReg} (h : u ∉ shownBy (.sys r)) (s : State) (v : Word) :
    (s.writeSReg r v).readUReg u = s.readUReg u := by
  cases u with
  | sys q =>
    cases r <;> cases q <;> first
      | refine absurd ?_ h; simp [shownBy]; done
      | rfl
  | _ => cases r <;> rfl

/-- A universal register written is read by the names `shownBy` lists. -/
theorem readUReg_writeUReg {u w : UReg} (h : u ∉ shownBy w) (s : State) (v : BusWord) :
    (s.writeUReg w v).readUReg u = s.readUReg u := by
  cases w with
  | sys r => exact readUReg_writeSReg h s _
  | r n | s n | i n | m n | l n | b n =>
    cases u with
    | r k | s k | i k | m k | l k | b k =>
      first
        | have hk : k ≠ n := by rintro rfl; refine h ?_; simp [shownBy]; done
          simp [State.writeUReg, State.readUReg, get_set_ne _ _ hk]
        | rfl
    | sys q => cases q <;> rfl
    | _ => rfl
  | pcstk =>
    cases hs : s.pcStack with
    | nil => simp [State.writeUReg, hs]
    | cons p rest =>
      cases u with
      | pcstk => exact absurd (by simp [shownBy]) h
      | pcstkp => simp [State.writeUReg, State.readUReg, hs]
      | sys q => cases q <;> simp [State.writeUReg, State.readUReg, State.readSReg, State.stackFlags,
        State.readImask, State.currentInterrupt, State.readFlags, State.view, State.irptlWord, hs]
      | _ => simp [State.writeUReg, State.readUReg, hs, State.inLine]
  | laddr =>
    cases hs : s.loops with
    | nil => simp [State.writeUReg, hs]
    | cons e rest =>
      cases u with
      | laddr => exact absurd (by simp [shownBy]) h
      | faddr => exact absurd (by simp [shownBy]) h
      | daddr => exact absurd (by simp [shownBy]) h
      | sys q => cases q <;> simp [State.writeUReg, State.readUReg, State.readSReg, State.stackFlags,
        State.readImask, State.currentInterrupt, State.readFlags, State.view, State.irptlWord, hs]
      | _ => simp [State.writeUReg, State.readUReg, hs]
  | curlcntr =>
    cases hs : s.loops with
    | nil => simp [State.writeUReg, hs]
    | cons e rest =>
      cases u with
      | curlcntr => exact absurd (by simp [shownBy]) h
      | faddr | daddr =>
        simp only [State.writeUReg, State.readUReg, State.inLine, hs, LoopEntry.endAddr] <;> rfl
      | sys q => cases q <;> simp [State.writeUReg, State.readUReg, State.readSReg, State.stackFlags,
        State.readImask, State.currentInterrupt, State.readFlags, State.view, State.irptlWord, hs]
      | _ => simp [State.writeUReg, State.readUReg, hs]
  | px | px1 | px2 =>
    cases u with
    | px | px1 | px2 => exact absurd (by simp [shownBy]) h
    | sys q => cases q <;> rfl
    | _ => rfl
  | faddr | daddr | pc | pcstkp | emuclk | emuclk2 => rfl
  | lcntr | tperiod | tcount =>
    cases u with
    | lcntr | tperiod | tcount => first | (refine absurd ?_ h; simp [shownBy]; done) | rfl
    | sys q => cases q <;> rfl
    | _ => rfl

end Sys2Proof.Machine
end

section
/-! What a compute leaves of its element (10_state.md R51, R54): the flags of its units, the sticky bits of their flags, the
data registers and the MR register it names. -/

-- One proof at a time: each thread that elaborates beside another reserves a gigabyte of the check's memory.
set_option Elab.async false

namespace Sys2Proof.Machine

/-! ### Fields of an element after a result -/

@[simp] theorem apply_astat (p : Pe) (r : PeResult) : (p.apply r).astat = r.astat p.astat := by
  unfold Pe.apply
  rcases r.mr with _ | ⟨bank, v⟩
  · rfl
  · cases bank <;> rfl

@[simp] theorem apply_stky (p : Pe) (r : PeResult) : (p.apply r).stky = p.stky ||| r.sticky := by
  unfold Pe.apply
  rcases r.mr with _ | ⟨bank, v⟩
  · rfl
  · cases bank <;> rfl

@[simp] theorem apply_rf (p : Pe) (r : PeResult) :
    (p.apply r).rf = r.regs.foldl (fun rf w => rf.set w.1 w.2) p.rf := by
  unfold Pe.apply
  rcases r.mr with _ | ⟨bank, v⟩
  · rfl
  · cases bank <;> rfl

/-- Writing registers leaves every other register. -/
theorem foldl_set_other (ws : List (RegNum × DataWord)) {n : RegNum} (h : n ∉ ws.map (fun w => w.1))
    (rf : Vector DataWord 16) : (ws.foldl (fun rf w => rf.set w.1 w.2) rf)[n] = rf[n] := by
  induction ws generalizing rf with
  | nil => rfl
  | cons w ws ih =>
    simp only [List.map_cons, List.mem_cons, not_or] at h
    obtain ⟨hn, hws⟩ := h
    rw [List.foldl_cons, ih hws, get_set_ne _ _ hn]

/-- A data register a result does not name is kept. -/
theorem apply_rf_other (p : Pe) (r : PeResult) {n : RegNum} (h : n ∉ r.regs.map (fun w => w.1)) :
    (p.apply r).rf[n] = p.rf[n] := by
  rw [apply_rf, foldl_set_other _ h]

/-- An MR register a result does not name is kept. -/
theorem apply_mr_other (p : Pe) (r : PeResult) {bank : MrBank} (h : r.mr.map (fun w => w.1) ≠ some bank) :
    (p.apply r).mr bank = p.mr bank := by
  unfold Pe.apply
  rcases hr : r.mr with _ | ⟨other, v⟩
  · cases bank <;> rfl
  · simp only [hr, Option.map_some, ne_eq, Option.some.injEq] at h
    cases other <;> cases bank <;> first | rfl | exact absurd rfl h

/-! ### Flags -/

/-- The ASTAT bits of the units that ran. -/
def PeResult.mask (r : PeResult) : Word :=
  (if r.alu.isSome then aluMask else 0#32) ||| (if r.cmp.isSome then compareMask else 0#32) |||
    (if r.mul.isSome then mulMask else 0#32) ||| (if r.shf.isSome then shiftMask else 0#32)

theorem alu_into_outside (f : AluFlags) (w : Word) {k : Nat} (h : aluMask.getLsbD k = false) :
    (f.into w).getLsbD k = w.getLsbD k := by
  have h' : ∀ j ∈ [0, 1, 2, 3, 4, 5, 10], k ≠ j := by
    rintro j hj rfl
    simp only [List.mem_cons, List.not_mem_nil, or_false] at hj
    rcases hj with rfl | rfl | rfl | rfl | rfl | rfl | rfl <;> simp [aluMask] at h
  rw [AluFlags.into_getLsbD]
  simp [h' 0, h' 1, h' 2, h' 3, h' 4, h' 5, h' 10]

theorem mul_into_outside (f : MulFlags) (w : Word) {k : Nat} (h : mulMask.getLsbD k = false) :
    (f.into w).getLsbD k = w.getLsbD k := by
  have h' : ∀ j ∈ [6, 7, 8, 9], k ≠ j := by
    rintro j hj rfl
    simp only [List.mem_cons, List.not_mem_nil, or_false] at hj
    rcases hj with rfl | rfl | rfl | rfl <;> simp [mulMask] at h
  rw [MulFlags.into_getLsbD]
  simp [h' 6, h' 7, h' 8, h' 9]

theorem shift_into_outside (f : ShiftFlags) (w : Word) {k : Nat} (h : shiftMask.getLsbD k = false) :
    (f.into w).getLsbD k = w.getLsbD k := by
  have h' : ∀ j ∈ [11, 12, 13], k ≠ j := by
    rintro j hj rfl
    simp only [List.mem_cons, List.not_mem_nil, or_false] at hj
    rcases hj with rfl | rfl | rfl <;> simp [shiftMask] at h
  rw [ShiftFlags.into_getLsbD]
  simp [h' 11, h' 12, h' 13]

theorem accumulate_outside (gt : Bool) (w : Word) {k : Nat} (h : compareMask.getLsbD k = false) :
    (accumulateCompare gt w).getLsbD k = w.getLsbD k := by
  rw [accumulateCompare_getLsbD]
  have hk : ∀ j, 24 ≤ j → j < 32 → compareMask.getLsbD j = true := by
    intro j h1 h2
    interval_cases j <;> rfl
  by_cases h1 : 24 ≤ k
  · by_cases h2 : k < 32
    · rw [hk k h1 h2] at h; cases h
    · simp [show k ≠ 31 by omega, h1, BitVec.getLsbD_of_ge w k (by omega), BitVec.getLsbD_of_ge w (k + 1) (by omega)]
  · simp [show k ≠ 31 by omega, h1]

/-- A result changes only the ASTAT bits of its units. -/
theorem astat_outside (r : PeResult) (w : Word) {k : Nat} (h : r.mask.getLsbD k = false) :
    (r.astat w).getLsbD k = w.getLsbD k := by
  simp only [PeResult.mask, BitVec.getLsbD_or, Bool.or_eq_false_iff] at h
  obtain ⟨⟨⟨ha, hc⟩, hm⟩, hs⟩ := h
  unfold PeResult.astat
  cases hcmp : r.cmp <;> cases halu : r.alu <;> cases hmul : r.mul <;> cases hshf : r.shf <;>
    simp_all [alu_into_outside, mul_into_outside, shift_into_outside, accumulate_outside]

theorem evalCompute_mask (c : Compute) (env : Env) (p : Pe) : (evalCompute c env p).mask = flagMask c := by
  cases c <;> simp [evalCompute, PeResult.mask, flagMask, PeResult.none, aluResult, compResult, shiftResult, mulToRn,
    mulToMr, fmulResult, dualResult, PeResult.beside]

theorem evalShiftImm_mask (sh : ShiftImm) (env : Env) (p : Pe) : (evalShiftImm sh env p).mask = shiftMask := by
  cases sh <;> simp [evalShiftImm, PeResult.mask, PeResult.none, shiftResult]

theorem evalCompute_mr (c : Compute) (env : Env) (p : Pe) :
    (evalCompute c env p).mr.map (fun w => w.1) = mrWritten c := by
  cases c <;> rfl

theorem evalShiftImm_mr (sh : ShiftImm) (env : Env) (p : Pe) : (evalShiftImm sh env p).mr = none := by
  cases sh <;> rfl

/-! ### Sticky bits -/

/-- The flags of a fixed-point ALU operation: of their sticky bits only AOS can be set. -/
def AluFlags.Fixed (f : AluFlags) : Prop := f.au = false ∧ f.ai = false ∧ f.floating = false

theorem AluFlags.Fixed.sticky {f : AluFlags} (h : f.Fixed) : f.sticky &&& ~~~0x00000004#32 = 0#32 := by
  obtain ⟨au, ai, fl⟩ := h
  unfold AluFlags.sticky
  rw [au, ai, fl]
  cases f.av <;> rfl

theorem AluFlags.sticky_of_floating {f : AluFlags} (h : f.floating = true) :
    f.sticky &&& ~~~0x00000023#32 = 0#32 := by
  unfold AluFlags.sticky
  rw [h]
  cases f.au <;> cases f.av <;> cases f.ai <;> rfl

theorem MulFlags.sticky_of_fixed {f : MulFlags} (h : f.floating = false) :
    f.sticky &&& ~~~0x00000140#32 = 0#32 := by
  unfold MulFlags.sticky
  rw [h]
  cases f.mv <;> cases f.mu <;> cases f.mi <;> rfl

theorem MulFlags.sticky_of_floating {f : MulFlags} (h : f.floating = true) :
    f.sticky &&& ~~~0x00000380#32 = 0#32 := by
  unfold MulFlags.sticky
  rw [h]
  cases f.mv <;> cases f.mu <;> cases f.mi <;> rfl

theorem fixOp2_fixed (op : FixOp2) (m : Word) (ci : Bool) (x y : Word) : (fixOp2 op m ci x y).flags.Fixed := by
  cases op <;> exact ⟨rfl, rfl, rfl⟩

theorem fixOp1_fixed (op : FixOp1) (m : Word) (ci : Bool) (x : Word) : (fixOp1 op m ci x).flags.Fixed := by
  cases op <;> exact ⟨rfl, rfl, rfl⟩

theorem absOut_floating {o : AluOut} (h : o.flags.floating = true) : (absOut o).flags.floating = true := by
  unfold absOut
  split <;> exact h

theorem finiteSum_floating (env : Env) (a b : DataWord) (half : Bool) :
    (finiteSum env a b half).flags.floating = true := by
  unfold finiteSum
  dsimp only
  split <;> rfl

theorem faddCore_floating (env : Env) (a b : DataWord) (half : Bool) :
    (faddCore env a b half).flags.floating = true := by
  unfold faddCore
  split_ifs
  case neg => exact finiteSum_floating _ _ _ _
  all_goals rfl

theorem fadd_floating (env : Env) (a b : DataWord) (n h r : Bool) : (fadd env a b n h r).flags.floating = true := by
  cases r
  · exact faddCore_floating _ _ _ _
  · exact absOut_floating (faddCore_floating _ _ _ _)

theorem scalb_floating (env : Env) (v : DataWord) (k : Int) : (scalb env v k).flags.floating = true := by
  unfold scalb
  cases fclass v with
  | normal => dsimp only; split_ifs <;> rfl
  | _ => rfl

theorem ftoiOverflow_floating (env : Env) (s : Bool) : (ftoiOverflow env s).flags.floating = true := by
  unfold ftoiOverflow
  split_ifs <;> rfl

theorem ftoi_floating (env : Env) (v : DataWord) (k : Int) (mode : Rounding) :
    (ftoi env v k mode).flags.floating = true := by
  unfold ftoi
  cases fclass v with
  | inf => exact ftoiOverflow_floating _ _
  | normal =>
    dsimp only
    split_ifs
    · exact ftoiOverflow_floating _ _
    · rfl
    · rfl
  | _ => rfl

theorem floatBy_floating (env : Env) (i : Word) (k : Int) : (floatBy env i k).flags.floating = true := by
  unfold floatBy
  split_ifs <;> rfl

theorem onNumbers_floating (env : Env) (a b : DataWord) (f : DataWord → DataWord → DataWord) :
    (onNumbers env a b f).flags.floating = true := by
  unfold onNumbers
  split_ifs <;> rfl

theorem fltOp2_floating (op : FltOp2) (env : Env) (a b : DataWord) : (fltOp2 op env a b).flags.floating = true := by
  cases op
  case add | sub | absAdd | absSub | avg => exact fadd_floating _ _ _ _ _ _
  case scalb => exact scalb_floating _ _ _
  case fixBy | truncBy => exact ftoi_floating _ _ _ _
  case floatBy => exact floatBy_floating _ _ _
  case copysign => unfold fltOp2; dsimp only; split_ifs <;> rfl
  case min | max | clip => exact onNumbers_floating _ _ _ _

theorem fltOp1_floating (op : FltOp1) (env : Env) (v : DataWord) : (fltOp1 op env v).flags.floating = true := by
  cases op
  case neg | pass => unfold fltOp1; dsimp only; split_ifs <;> rfl
  case abs => show (fabsOut v).flags.floating = true; unfold fabsOut; split_ifs <;> rfl
  case rnd => show (frnd env v).flags.floating = true; unfold frnd; cases fclass v <;> rfl
  case mant => show (mant v).flags.floating = true; unfold mant; cases fclass v <;> rfl
  case logb => show (logb env v).flags.floating = true; unfold logb; cases fclass v <;> rfl
  case fix | trunc => exact ftoi_floating _ _ _ _
  case float => exact floatBy_floating _ _ _
  case recips =>
    show (recips v).flags.floating = true
    unfold recips
    cases fclass v with
    | normal => dsimp only; split_ifs <;> rfl
    | _ => rfl
  case rsqrts =>
    show (rsqrts v).flags.floating = true
    unfold rsqrts
    cases fclass v with
    | inf | normal => dsimp only; split_ifs <;> rfl
    | _ => rfl

theorem compareFloat_floating (env : Env) (a b : DataWord) : (compareFloat env a b).flags.floating = true := by
  unfold compareFloat
  split_ifs <;> rfl

theorem compareFixed_sticky (u : Bool) (x y : Word) : (compareFixed u x y).flags.sticky = 0#32 := by
  unfold compareFixed
  split_ifs <;> simp [compOut, AluFlags.sticky, bitWord]

theorem fmul_floating (env : Env) (a b : DataWord) : (fmul env a b).flags.floating = true := by
  unfold fmul
  dsimp only
  split_ifs <;> rfl

theorem transferFlags_sticky : transferFlags.sticky = 0#32 := by decide

theorem mfMul_floating (op : MfMulOp) (p : Pe) (mi : MfMulIn) : (mfMul op p mi).flags.floating = false := by
  cases op <;> rfl

/-- The sticky bits of one ALU result. -/
theorem sticky_alu {r : PeResult} {f : AluFlags} (ha : r.alu = some f) (hm : r.mul = none) : r.sticky = f.sticky := by
  simp [PeResult.sticky, ha, hm]

theorem sticky_mul {r : PeResult} {f : MulFlags} (ha : r.alu = none) (hm : r.mul = some f) : r.sticky = f.sticky := by
  simp [PeResult.sticky, ha, hm]

theorem sticky_none {r : PeResult} (ha : r.alu = none) (hm : r.mul = none) : r.sticky = 0#32 := by
  simp [PeResult.sticky, ha, hm]

/-- The sticky bits of two units, each within its mask. -/
theorem sticky_both {r : PeResult} {f : AluFlags} {g : MulFlags} (ha : r.alu = some f) (hm : r.mul = some g)
    {mf mg : Word} (hf : f.sticky &&& ~~~mf = 0#32) (hg : g.sticky &&& ~~~mg = 0#32) :
    r.sticky &&& ~~~(mf ||| mg) = 0#32 := by
  simp only [PeResult.sticky, ha, hm]
  ext k hk
  have h1 := congrArg (fun w => w[k]) hf
  have h2 := congrArg (fun w => w[k]) hg
  simp at h1 h2 ⊢
  grind

/-- An operation sets only the sticky bits of its mask. -/
theorem evalCompute_sticky (c : Compute) (env : Env) (p : Pe) :
    (evalCompute c env p).sticky &&& ~~~stickyMask c = 0#32 := by
  cases c
  case fix2 => rw [sticky_alu rfl rfl]; exact (fixOp2_fixed _ _ _ _ _).sticky
  case fix1 => rw [sticky_alu rfl rfl]; exact (fixOp1_fixed _ _ _ _).sticky
  case dualFix => rw [sticky_alu rfl rfl]; exact AluFlags.Fixed.sticky ⟨rfl, rfl, rfl⟩
  case flt2 => rw [sticky_alu rfl rfl]; exact AluFlags.sticky_of_floating (fltOp2_floating _ _ _ _)
  case flt1 => rw [sticky_alu rfl rfl]; exact AluFlags.sticky_of_floating (fltOp1_floating _ _ _)
  case compFlt => rw [sticky_alu rfl rfl]; exact AluFlags.sticky_of_floating (compareFloat_floating _ _ _)
  case dualFlt => rw [sticky_alu rfl rfl]; exact AluFlags.sticky_of_floating rfl
  case compFix => rw [sticky_alu rfl rfl, compareFixed_sticky, BitVec.zero_and]
  case mulRn | mulMr | macRn | macMr | rndRn | rndMr => rw [sticky_mul rfl rfl]; exact MulFlags.sticky_of_fixed rfl
  case satRn | satMr =>
    rw [sticky_mul rfl rfl]
    simp only [MulFlags.sticky, saturateMr, stickyMask, mulFlags]
    cases muFixed _ _ _ <;> rfl
  case mulFlt => rw [sticky_mul rfl rfl]; exact MulFlags.sticky_of_floating (fmul_floating _ _ _)
  case mulAluFix =>
    exact sticky_both rfl rfl (fixOp2_fixed _ _ _ _ _).sticky (MulFlags.sticky_of_fixed (mfMul_floating _ _ _))
  case macAluFix => exact sticky_both rfl rfl (fixOp2_fixed _ _ _ _ _).sticky (MulFlags.sticky_of_fixed rfl)
  case mulDualFix => exact sticky_both rfl rfl (AluFlags.Fixed.sticky ⟨rfl, rfl, rfl⟩) (MulFlags.sticky_of_fixed rfl)
  case mulAluFlt =>
    exact sticky_both rfl rfl (AluFlags.sticky_of_floating (fltOp2_floating _ _ _ _))
      (MulFlags.sticky_of_floating (fmul_floating _ _ _))
  case mulAbsFlt =>
    exact sticky_both rfl rfl (AluFlags.sticky_of_floating (fltOp1_floating _ _ _))
      (MulFlags.sticky_of_floating (fmul_floating _ _ _))
  case mulDualFlt =>
    exact sticky_both rfl rfl (AluFlags.sticky_of_floating rfl) (MulFlags.sticky_of_floating (fmul_floating _ _ _))
  case putMr | getMr => rw [sticky_mul rfl rfl, transferFlags_sticky, BitVec.zero_and]
  case nop | clrMr | shift | btst | field | shift1 => rw [sticky_none rfl rfl, BitVec.zero_and]

theorem evalShiftImm_sticky (sh : ShiftImm) (env : Env) (p : Pe) : (evalShiftImm sh env p).sticky = 0#32 := by
  cases sh <;> exact sticky_none rfl rfl

theorem getLsbD_of_within {w m : Word} (h : w &&& ~~~m = 0#32) {k : Nat} (hk : m.getLsbD k = false) :
    w.getLsbD k = false := by
  by_cases h32 : k < 32
  · have := congrArg (fun v => v.getLsbD k) h
    simpa only [BitVec.getLsbD_and, BitVec.getLsbD_not, hk, h32, decide_true, Bool.not_false, Bool.and_true,
      BitVec.getLsbD_zero] using this
  · exact BitVec.getLsbD_of_ge _ _ (by omega)

/-- Settles O39, field by field of the element after the result. -/
theorem unitFrame : Obligations.UnitFrame := by
  intro c env p q
  refine ⟨fun k hk => ?astat, fun k hk => ?keeps, fun k hk => ?sticky, fun n hn => ?rf, fun bank hb => ?mr⟩
  case astat =>
    rw [apply_astat]
    exact astat_outside _ _ (by rw [evalCompute_mask]; exact hk)
  case keeps => rw [apply_stky, BitVec.getLsbD_or, hk, Bool.true_or]
  case sticky =>
    rw [apply_stky, BitVec.getLsbD_or, getLsbD_of_within (evalCompute_sticky c env p) hk, Bool.or_false]
  case rf => exact apply_rf_other _ _ (by rw [evalCompute_regs]; exact hn)
  case mr => exact apply_mr_other _ _ (by rw [evalCompute_mr]; exact hb)

end Sys2Proof.Machine
end

section
/-! What the writes of an instruction may be: to which cells they store, which registers they show in, which MR
registers they write (20_memory.md R125, 40_compute_move.md R220, R221). -/

-- One proof at a time: each thread that elaborates beside another reserves a gigabyte of the check's memory.
set_option Elab.async false

namespace Sys2Proof.Machine

/-! ### One write -/

/-- The addresses a write stores to. -/
def Write.addrs : Write → List Word
  | .cell a _ _ => [a]
  | .device a => [a]
  | .reg _ _ | .unit _ _ | .overflow _ => []

/-- The universal registers a compute's result on an element can show in. -/
def PeResult.shows (e : Element) (r : PeResult) : List UReg :=
  r.regs.map (fun w => dregOf e w.1) ++ (if r.mask = 0#32 then [] else [.sys (astatOf e)]) ++
    (if r.sticky = 0#32 then [] else [.sys (stkyOf e)])

/-- The universal registers a write can show in. -/
def Write.shows : Write → List UReg
  | .reg u _ => shownBy u
  | .unit e r => r.shows e
  | .overflow k => if overflowBit k = 0#32 then [] else [.sys .stkyx]
  | .cell _ _ _ | .device _ => []

/-- The MR registers a write writes, of either element. -/
def Write.banks : Write → List MrBank
  | .unit _ r => (r.mr.map (fun w => w.1)).toList
  | .reg _ _ | .cell _ _ _ | .device _ | .overflow _ => []

/-- A write the machine makes: a register write nothing forbids, a cell by its width, a device by its address. -/
def Write.Sane (s : State) : Write → Prop
  | .reg u v => s.writeRefusal u v = none
  | .cell a lanes _ => lanes = cellLanes s a ∧ s.region a ≠ .device
  | .device a => s.region a = .device
  | .unit _ _ | .overflow _ => True

/-! ### What one write leaves -/

theorem eq_of_within_zero {w v : Word} (h : ∀ k, w.getLsbD k = v.getLsbD k) : w = v :=
  BitVec.eq_of_getLsbD_eq fun k _ => h k

/-- A compute's result on an element shows only in the registers it names, ASTAT and STKY of the element. -/
theorem readUReg_withPe_apply {s : State} {e : Element} {r : PeResult} {u : UReg} (h : u ∉ r.shows e) :
    (s.withPe e ((s.pe e).apply r)).readUReg u = s.readUReg u := by
  simp only [PeResult.shows, List.mem_append, not_or] at h
  obtain ⟨⟨hr, ha⟩, ht⟩ := h
  have reg : ∀ n, u = dregOf e n → n ∉ r.regs.map (fun w => w.1) := by
    rintro n rfl hn
    obtain ⟨w, hw, rfl⟩ := List.mem_map.mp hn
    exact hr (List.mem_map.mpr ⟨w, hw, rfl⟩)
  have astat : u = .sys (astatOf e) → ((s.pe e).apply r).astat = (s.pe e).astat := by
    rintro rfl
    have hm : r.mask = 0#32 := by by_contra hm; simp [hm] at ha
    rw [apply_astat]
    exact eq_of_within_zero fun k => astat_outside r _ (by rw [hm]; simp)
  have stky : u = .sys (stkyOf e) → ((s.pe e).apply r).stky = (s.pe e).stky := by
    rintro rfl
    have hm : r.sticky = 0#32 := by by_contra hm; simp [hm] at ht
    rw [apply_stky, hm, BitVec.or_zero]
  cases e with
  | x =>
    cases u with
    | r n => simp only [State.readUReg, State.withPe, State.pe, apply_rf_other _ _ (reg n rfl)]
    | sys q =>
      cases q with
      | astatx =>
        exact congrArg (fun v => (Except.ok (bus32 v) : Run BusWord)) (astat rfl)
      | stkyx =>
        exact congrArg (fun v => (Except.ok (bus32 ((v &&& storedSticky) ||| s.stackFlags)) : Run BusWord)) (stky rfl)
      | _ => rfl
    | _ => rfl
  | y =>
    cases u with
    | s n => simp only [State.readUReg, State.withPe, State.pe, apply_rf_other _ _ (reg n rfl)]
    | sys q =>
      cases q with
      | astaty =>
        exact congrArg (fun v => (Except.ok (bus32 v) : Run BusWord)) (astat rfl)
      | stkyy =>
        exact congrArg (fun v => (Except.ok (bus32 v) : Run BusWord)) (stky rfl)
      | _ => rfl
    | _ => rfl

theorem readUReg_overflow {s : State} {k : RegNum} {u : UReg} (h : u ∉ Write.shows (.overflow k)) :
    ((Write.overflow k).apply s).readUReg u = s.readUReg u := by
  cases u with
  | sys q =>
    cases q with
    | stkyx =>
      have hk : overflowBit k = 0#32 := by by_contra hk; simp [Write.shows, hk] at h
      simp [Write.apply, hk]
    | _ => rfl
  | _ => rfl

/-- A write shows only in the registers it lists. -/
theorem readUReg_apply {s : State} {w : Write} {u : UReg} (h : u ∉ w.shows) :
    (w.apply s).readUReg u = s.readUReg u := by
  cases w with
  | reg v x => exact readUReg_writeUReg h s x
  | cell a lanes v => cases u with
    | sys q => cases q <;> rfl
    | _ => rfl
  | device a => rfl
  | unit e r => exact readUReg_withPe_apply h
  | overflow k => exact readUReg_overflow h

theorem readUReg_foldl {ws : List Write} {u : UReg} (h : ∀ w ∈ ws, u ∉ w.shows) (s : State) :
    (ws.foldl Write.apply s).readUReg u = s.readUReg u := by
  induction ws generalizing s with
  | nil => rfl
  | cons w ws ih =>
    rw [List.foldl_cons, ih (fun v hv => h v (List.mem_cons_of_mem _ hv)), readUReg_apply (h w List.mem_cons_self)]

theorem pe_mr_writeUReg (s : State) (u : UReg) (v : BusWord) (e : Element) (bank : MrBank) :
    ((s.writeUReg u v).pe e).mr bank = (s.pe e).mr bank := by
  cases u with
  | sys q => cases q <;> cases e <;> cases bank <;> rfl
  | pcstk => cases h : s.pcStack <;> cases e <;> simp [State.writeUReg, h, State.pe]
  | laddr | curlcntr => cases h : s.loops <;> cases e <;> simp [State.writeUReg, h, State.pe]
  | _ => cases e <;> cases bank <;> rfl

/-- A write leaves the MR registers it does not list. -/
theorem pe_mr_apply {w : Write} {bank : MrBank} (h : bank ∉ w.banks) (s : State) (e : Element) :
    ((w.apply s).pe e).mr bank = (s.pe e).mr bank := by
  cases w with
  | reg u v => exact pe_mr_writeUReg s u v e bank
  | cell a lanes v => cases e <;> rfl
  | device a => rfl
  | overflow k => cases e <;> cases bank <;> rfl
  | unit f r =>
    have hr : r.mr.map (fun w => w.1) ≠ some bank := by
      intro hb; simp [Write.banks, hb] at h
    cases e <;> cases f <;> first | rfl | exact apply_mr_other _ _ hr

theorem pe_mr_foldl {ws : List Write} {bank : MrBank} (h : ∀ w ∈ ws, bank ∉ w.banks) (s : State) (e : Element) :
    ((ws.foldl Write.apply s).pe e).mr bank = (s.pe e).mr bank := by
  induction ws generalizing s with
  | nil => rfl
  | cons w ws ih =>
    rw [List.foldl_cons, ih (fun v hv => h v (List.mem_cons_of_mem _ hv)), pe_mr_apply (h w List.mem_cons_self)]

/-! ### A list of writes -/

/-- The writes are sane, store to exactly these cells in this order, and show only in these registers and MR
registers. -/
structure WritesFit (s : State) (ws : List Write) (cells : List Word) (dests : List UReg) (banks : List MrBank) :
    Prop where
  sane : ∀ w ∈ ws, w.Sane s
  addrs : ws.flatMap Write.addrs = cells
  shows : ∀ w ∈ ws, ∀ u ∈ w.shows, u ∈ dests
  banks : ∀ w ∈ ws, ∀ bank ∈ w.banks, bank ∈ banks

theorem WritesFit.nil (s : State) (dests : List UReg) (banks : List MrBank) : WritesFit s [] [] dests banks :=
  ⟨by simp, rfl, by simp, by simp⟩

theorem WritesFit.mono {s : State} {ws : List Write} {cells : List Word} {d d' : List UReg} {b b' : List MrBank}
    (h : WritesFit s ws cells d b) (hd : ∀ u ∈ d, u ∈ d') (hb : ∀ k ∈ b, k ∈ b') : WritesFit s ws cells d' b' :=
  ⟨h.sane, h.addrs, fun w hw u hu => hd u (h.shows w hw u hu), fun w hw k hk => hb k (h.banks w hw k hk)⟩

/-- Writes beside one another. -/
theorem WritesFit.append {s : State} {ws ws' : List Write} {c c' : List Word} {d d' : List UReg} {b b' : List MrBank}
    (h : WritesFit s ws c d b) (h' : WritesFit s ws' c' d' b') :
    WritesFit s (ws ++ ws') (c ++ c') (d ++ d') (b ++ b') where
  sane w hw := (List.mem_append.mp hw).elim (h.sane w) (h'.sane w)
  addrs := by rw [List.flatMap_append, h.addrs, h'.addrs]
  shows w hw u hu := List.mem_append.mpr
    ((List.mem_append.mp hw).imp (fun hw => h.shows w hw u hu) (fun hw => h'.shows w hw u hu))
  banks w hw k hk := List.mem_append.mpr
    ((List.mem_append.mp hw).imp (fun hw => h.banks w hw k hk) (fun hw => h'.banks w hw k hk))

/-- One register write that nothing forbids. -/
theorem WritesFit.reg {s : State} {u : UReg} {v : BusWord} (h : s.writeRefusal u v = none) :
    WritesFit s [.reg u v] [] (shownBy u) [] :=
  ⟨fun _ hw => by rw [List.mem_singleton.mp hw]; exact h, rfl, by simp [Write.shows], by simp [Write.banks]⟩

theorem WritesFit.cell {s : State} {a : Word} (v : BusWord) {lanes : Nat} (hl : lanes = cellLanes s a)
    (h : s.region a ≠ .device) : WritesFit s [.cell a lanes v] [a] [] [] :=
  ⟨by simpa using ⟨hl, h⟩, rfl, by simp [Write.shows], by simp [Write.banks]⟩

theorem WritesFit.device {s : State} {a : Word} (h : s.region a = .device) : WritesFit s [.device a] [a] [] [] :=
  ⟨fun _ hw => by rw [List.mem_singleton.mp hw]; exact h, rfl, by simp [Write.shows], by simp [Write.banks]⟩

/-! ### Computes -/

/-- The registers of a unit on PEx, or on PEy in SIMD mode, are among its destinations. -/
theorem shows_unitDests {s : State} {e : Element} {r : PeResult} {flags sticky : Word} (hm : r.mask = flags)
    (hs : r.sticky &&& ~~~sticky = 0#32) (he : e = .y → s.simd = true) :
    ∀ u ∈ r.shows e, u ∈ unitDests s (r.regs.map (fun w => w.1)) flags sticky := by
  have hz : r.sticky ≠ 0#32 → sticky ≠ 0#32 := by
    rintro h rfl
    exact h (by rwa [BitVec.not_zero, BitVec.and_allOnes] at hs)
  intro u hu
  simp only [PeResult.shows, List.mem_append, hm] at hu
  simp only [unitDests, List.mem_append]
  cases e with
  | x =>
    refine .inl ?_
    rcases hu with (hu | hu) | hu
    · exact .inl (.inl (by simpa [dregOf] using hu))
    · exact .inl (.inr hu)
    · split at hu
      · simp at hu
      · rw [if_neg (hz ‹_›)]
        exact .inr hu
  | y =>
    rw [if_pos (he rfl)]
    refine .inr ?_
    rw [List.mem_append, List.mem_append]
    rcases hu with (hu | hu) | hu
    · exact .inl (.inl (by simpa [dregOf] using hu))
    · exact .inl (.inr hu)
    · split at hu
      · simp at hu
      · rw [if_neg (hz ‹_›)]
        exact .inr hu

theorem WritesFit.unit {s : State} {e : Element} {r : PeResult} {flags sticky : Word} (hm : r.mask = flags)
    (hs : r.sticky &&& ~~~sticky = 0#32) (he : e = .y → s.simd = true) :
    WritesFit s [.unit e r] [] (unitDests s (r.regs.map (fun w => w.1)) flags sticky)
      (r.mr.map (fun w => w.1)).toList :=
  ⟨by simp [Write.Sane], rfl, by simpa [Write.shows] using shows_unitDests hm hs he, by simp [Write.banks]⟩

theorem computeWrites_fit (s : State) (c : Compute) (ex : Bool) {ey : Bool} (hy : ey = true → s.simd = true) :
    WritesFit s (computeWrites s c ex ey) [] (computeDests s c) (mrWritten c).toList := by
  have one : ∀ e p, (e = .y → s.simd = true) →
      WritesFit s [.unit e (evalCompute c (s.env e) p)] [] (computeDests s c) (mrWritten c).toList := by
    intro e p he
    have h := WritesFit.unit (evalCompute_mask c (s.env e) p) (evalCompute_sticky c (s.env e) p) he
    rwa [evalCompute_regs, evalCompute_mr] at h
  unfold computeWrites
  split
  · exact .nil _ _ _
  · refine ((WritesFit.append (c := []) (c' := []) (d := computeDests s c) (d' := computeDests s c) (b := (mrWritten
    c).toList)
      (b' := (mrWritten c).toList) ?_ ?_).mono (by simp) (by simp))
    · cases ex
      · exact .nil _ _ _
      · exact one .x _ (by simp)
    · cases ey
      · exact .nil _ _ _
      · exact one .y _ (fun _ => hy rfl)

theorem shiftImmWrites_fit (s : State) (sh : ShiftImm) (ex : Bool) {ey : Bool} (hy : ey = true → s.simd = true) :
    WritesFit s (shiftImmWrites s sh ex ey) [] (unitDests s (destRegsImm sh) shiftMask 0#32) [] := by
  have one : ∀ e p, (e = .y → s.simd = true) →
      WritesFit s [.unit e (evalShiftImm sh (s.env e) p)] [] (unitDests s (destRegsImm sh) shiftMask 0#32) [] := by
    intro e p he
    have h := WritesFit.unit (sticky := 0#32) (evalShiftImm_mask sh (s.env e) p)
      (by rw [evalShiftImm_sticky, BitVec.zero_and]) he
    rwa [evalShiftImm_regs, evalShiftImm_mr] at h
  refine ((WritesFit.append (c := []) (c' := []) (b := []) (b' := [])
    (d := unitDests s (destRegsImm sh) shiftMask 0#32) (d' := unitDests s (destRegsImm sh) shiftMask 0#32)
     ?_ ?_).mono (by simp) (by simp))
  · cases ex
    · exact .nil _ _ _
    · exact one .x _ (by simp)
  · cases ey
    · exact .nil _ _ _
    · exact one .y _ (fun _ => hy rfl)

/-! ### Index registers -/

theorem indexWrites_fit (s : State) (k : RegNum) (v : Word) (wrapped : Bool) :
    WritesFit s (indexWrites k v wrapped) [] (indexDests k) [] := by
  have h : WritesFit s (if wrapped then [.overflow k] else []) [] (Write.overflow k).shows [] := by
    cases wrapped
    · exact .nil _ _ _
    · exact ⟨by simp [Write.Sane], rfl, by simp, by simp [Write.banks]⟩
  exact (WritesFit.reg (u := .i k) (v := bus32 v) rfl).append h

theorem postmodWrites_fit (s : State) (go : Bool) (k : RegNum) (m : Word) :
    WritesFit s (postmodWrites s go k m) [] (if go then indexDests k else []) [] := by
  unfold postmodWrites
  cases go
  · exact .nil _ _ _
  · exact indexWrites_fit _ _ _ _

/-! ### Moves -/

theorem storeCell_fit {s : State} {a : Word} {px : Bool} {v : BusWord} {ws : List Write}
    (h : storeCell s a px v = .ok ws) : WritesFit s ws [a] [] [] := by
  rcases (storeCell_eq_ok s a px v ws).mp h with ⟨hr, rfl⟩ | ⟨hr, rfl⟩
  · exact .device hr
  · refine .cell v rfl ?_
    rcases hr with (hr | hr) | ⟨hr, -⟩ <;> simp [hr]

theorem cellLanes_word32 {s : State} {a : Word} (h : s.region a = .word32) : cellLanes s a = 4 := by
  simp [cellLanes, h]

theorem cellLanes_long {s : State} {a : Word} (h : s.region a = .long) : cellLanes s a = 8 := by
  simp [cellLanes, h]

theorem storeLong_fit {s : State} {lw : Bool} {a : Word} {v : BusWord} {ws : List Write} (hl : isLong s lw a = true)
    (h : storeLong s a v = .ok ws) : WritesFit s ws (cellsOf s lw a) [] [] := by
  unfold cellsOf
  rcases (storeLong_eq_ok s a v ws).mp h with ⟨hr, rfl⟩ | ⟨hr, rfl⟩ | ⟨hr, he, ho, rfl⟩
  · rw [if_neg (by simp [hr])]
    exact .device hr
  · rw [if_neg (by simp [hr])]
    exact .cell v (cellLanes_long hr).symm (by simp [hr])
  · rw [if_pos ⟨hl, hr⟩]
    exact (WritesFit.cell (v <<< 32) (cellLanes_word32 he).symm (by simp [he])).append
      (WritesFit.cell v (cellLanes_word32 ho).symm (by simp [ho]))

theorem storeReg_fit {s : State} {lw : Bool} {a : Word} {u : UReg} {ws : List Write}
    (h : storeReg s lw a u = .ok ws) : WritesFit s ws (cellsOf s lw a) [] [] := by
  obtain ⟨-, h⟩ := (storeReg_eq_ok s lw a u ws).mp h
  split at h
  · obtain ⟨-, lo, hi, l, hh, -, -, -, hs⟩ := (storePair_eq_ok s a u ws).mp h
    exact storeLong_fit ‹_› hs
  · rename_i hl
    obtain ⟨v, -, hs⟩ := h
    unfold cellsOf
    rw [if_neg (fun c => hl c.1)]
    exact storeCell_fit hs

theorem loadReg_fit {s : State} {lw : Bool} {a : Word} {u : UReg} {ws : List Write}
    (h : loadReg s lw a u = .ok ws) : WritesFit s ws [] (pairDests s lw a u) [] := by
  obtain ⟨-, h⟩ := (loadReg_eq_ok s lw a u ws).mp h
  unfold pairDests
  split at h
  · obtain ⟨-, lo, hi, v, hn, -, hl, hh, rfl⟩ := (loadPair_eq_ok s a u ws).mp h
    rw [if_pos ‹_›, hn]
    exact (WritesFit.reg hl).append (WritesFit.reg hh)
  · obtain ⟨v, -, hv, rfl⟩ := h
    rw [if_neg ‹_›]
    exact .reg hv

theorem onlyIf_fit {s : State} {go : Bool} {r : Run (List Write)} {ws : List Write} {c : List Word} {d : List UReg}
    (hr : r = .ok ws → WritesFit s ws c d []) (h : onlyIf go r = .ok ws) :
    WritesFit s ws (if go then c else []) (if go then d else []) [] := by
  rw [onlyIf_eq_ok] at h
  cases go
  · cases h
    exact .nil _ _ _
  · exact hr h

/-- A move stores to `movedCells` and loads into `moveDests`. -/
theorem xfer_fit {s : State} {lw : Bool} {ax : Word} {u : UReg} {store ex ey : Bool} {k : Option RegNum}
    {ws : List Write} (hy : ey = true → s.simd = true) (h : xfer s lw ax u store ex ey k = .ok ws) :
    WritesFit s ws (movedCells s lw ax u store ex ey) (moveDests s lw (k.any (broadcast s)) ax u store) [] := by
  rw [xfer_eq_ok] at h
  unfold movedCells moveDests
  split at h
  · rename_i honce
    obtain ⟨-, h⟩ := h
    rw [← onlyIf_eq_ok] at h
    simp only [honce, Bool.not_true, Bool.and_false, Bool.false_eq_true, if_false, List.append_nil]
    cases store
    · have hr := onlyIf_fit loadReg_fit h
      rw [ite_self] at hr
      exact hr.mono (by cases ex <;> simp) (by simp)
    · simpa only [if_true, ite_self] using onlyIf_fit storeReg_fit h
  · rename_i honce
    obtain ⟨wx, wy, rfl, h⟩ := h
    simp only [Bool.not_eq_true] at honce
    simp only [honce, Bool.not_false, Bool.and_true]
    cases store
    · obtain ⟨hx, hyy⟩ := h
      have hr := (onlyIf_fit loadReg_fit hx).append (onlyIf_fit loadReg_fit hyy)
      simp only [ite_self, List.append_nil] at hr
      refine hr.mono (fun u hu => ?_) (by simp)
      rcases List.mem_append.mp hu with hu | hu
      · exact List.mem_append_left _ (by split at hu <;> simp_all)
      · refine List.mem_append_right _ ?_
        split at hu
        case isFalse => simp at hu
        rename_i hgo
        rw [if_pos]
        · exact hu
        · simp only [Bool.or_eq_true, Bool.and_eq_true] at hgo ⊢
          exact hgo.imp hy (fun g => g.1.1)
    · obtain ⟨hx, hyy⟩ := h
      simpa only [if_true, ite_self, List.append_nil] using (onlyIf_fit storeReg_fit hx).append (onlyIf_fit
        storeReg_fit hyy)

/-! ### The computes alone (40_compute_move.md R223) -/

/-- A row of the compute tables: the Type 2 word that is one compute alone. -/
def standsAlone : Instr → Bool
  | .dualMove .. | .ifCompute .. | .uregMove .. | .dregMoveImm .. | .uregToUreg .. | .swap .. | .shiftImmMove .. |
    .shiftImm .. | .modifyReg .. | .jumpAbs .. | .jumpRel .. | .callAbs .. | .callRel .. | .jumpInd .. | .jumpRel6 ..
    | .callInd .. | .callRel6 .. | .jumpIndElse .. | .jumpRelElse .. | .rts .. | .rti .. | .doCountImm .. |
    .doCountReg .. | .doUntil .. | .storeDirect .. | .loadDirect .. | .storeIndexed .. | .loadIndexed .. | .storeImm
    .. | .loadImm .. | .bitSet .. | .bitClr .. | .bitTgl .. | .bitTst .. | .bitXor .. | .modifyImm .. | .bitrev .. |
    .pushPcstk .. | .pushLoop .. | .pushSts .. | .popLoop .. | .flushCache .. | .popSts .. | .popPcstk .. |
    .stackNone .. | .nop .. | .idle .. | .cjumpAbs .. | .cjumpRel .. | .rframe .. => false
  | _ => true

theorem writesOf_alone {i : Instr} (h : standsAlone i = true) (s : State) :
    writesOf i s = .ok (computeWrites s i.compute true s.simd) := by
  cases i <;> first | (cases h; done) | rfl

theorem tailOf_alone {i : Instr} (h : standsAlone i = true) (s t : State) : tailOf i s t = .ok t := by
  cases i <;> first | (cases h; done) | rfl

theorem storedCells_alone {i : Instr} (h : standsAlone i = true) (s : State) : storedCells i s = [] := by
  cases i <;> first | (cases h; done) | rfl

theorem destinations_alone {i : Instr} (h : standsAlone i = true) (s : State) :
    destinations i s = computeDests s i.compute := by
  cases i <;> first | (cases h; done) | rfl

theorem flushes_alone {i : Instr} (h : standsAlone i = true) : flushes i = false := by
  cases i <;> first | (cases h; done) | rfl

/-! ### Each instruction's writes -/

theorem WritesFit.of_ok {s : State} {ws ws' : List Write} {c : List Word} {d : List UReg} {b : List MrBank}
    (h : WritesFit s ws c d b) (hw : (Except.ok ws : Run (List Write)) = .ok ws') : WritesFit s ws' c d b := by
  cases hw
  exact h

/-- Writes beside others that store nothing. -/
theorem WritesFit.beside {s : State} {ws ws' : List Write} {c : List Word} {d d' : List UReg} {b : List MrBank}
    (h : WritesFit s ws c d b) (h' : WritesFit s ws' [] d' []) : WritesFit s (ws ++ ws') c (d ++ d') b := by
  simpa only [List.append_nil] using h.append h'

theorem simd_of_evalCond {s : State} {c : Cond} {p : CondPair} (h : evalCond s c = .ok p) :
    p.cy = true → s.simd = true := by
  intro hy
  by_contra hs
  rw [evalCond_sisd h (by simpa using hs)] at hy
  cases hy

theorem simd_of_and {s : State} {q : Bool} : (s.simd && q) = true → s.simd = true := by
  simp +contextual

/-- A compute, a move and a post-modify. -/
theorem move_fit {s : State} {wc w : List Write} {cells : List Word} {dc dm : List UReg} {b : List MrBank}
    (hc : WritesFit s wc [] dc b) (hm : WritesFit s w cells dm []) {go post : Bool} (hg : go = true → post = true) (k
      : RegNum) (m : Word) :
    WritesFit s (wc ++ w ++ postmodWrites s go k m) cells (dc ++ dm ++ if post then indexDests k else []) b := by
  have h := (hc.append hm).append (postmodWrites_fit s go k m)
  simp only [List.nil_append, List.append_nil] at h
  refine h.mono (fun u hu => ?_) (fun _ hk => hk)
  rcases List.mem_append.mp hu with hu | hu
  · exact List.mem_append_left _ hu
  · cases hgo : go
    · simp [hgo] at hu
    · rw [hg hgo]
      exact List.mem_append_right _ (by simpa [hgo] using hu)

/-- A register write and, in SIMD mode, one of its complement. -/
theorem complement_fit {s : State} {u : UReg} {wx wy : List Write} {go gy : Bool} {rx ry : Run (List Write)}
    (hx : onlyIf go rx = .ok wx) (hy : onlyIf gy ry = .ok wy)
    (fx : rx = .ok wx → WritesFit s wx [] (shownBy u) []) (fy : ry = .ok wy → WritesFit s wy [] (shownBy (complement
      u)) [])
    (hg : gy = true → s.simd = true ∧ hasComplement u = true) : WritesFit s (wx ++ wy) [] (withComplement s u) [] :=
      by
  have h := (onlyIf_fit fx hx).append (onlyIf_fit fy hy)
  simp only [ite_self, List.append_nil] at h
  refine h.mono (fun v hv => ?_) (by simp)
  unfold withComplement
  rcases List.mem_append.mp hv with hv | hv
  · exact List.mem_append_left _ (by cases go <;> simp_all)
  · cases hgy : gy
    · simp [hgy] at hv
    · obtain ⟨h1, h2⟩ := hg hgy
      exact List.mem_append_right _ (by simpa [h1, h2, hgy] using hv)

theorem regWrite_fit {s : State} {u : UReg} {v : BusWord} {ws : List Write} (h : regWrite s u v = .ok ws) :
    WritesFit s ws [] (shownBy u) [] := by
  obtain ⟨hr, rfl⟩ := (regWrite_eq_ok s u v ws).mp h
  exact .reg hr

theorem moveReg_fit {s : State} {dst src : UReg} {ws : List Write} (h : moveReg s dst src = .ok ws) :
    WritesFit s ws [] (shownBy dst) [] := by
  obtain ⟨-, v, -, hv, rfl⟩ := (moveReg_eq_ok s dst src ws).mp h
  exact .reg hv

theorem uregTransfer_fit {s : State} {p : CondPair} {dst src : UReg} {w : List Write} (hy : p.cy = true → s.simd =
    true)
    (h : uregTransfer s p dst src = .ok w) : WritesFit s w [] (withComplement s dst) [] := by
  unfold uregTransfer at h
  split at h
  · rename_i hc
    obtain ⟨wx, hx, h⟩ := (Run.bind_eq_ok _ _ _).mp h
    obtain ⟨wy, hwy, h⟩ := (Run.bind_eq_ok _ _ _).mp h
    cases h
    exact complement_fit hx hwy moveReg_fit moveReg_fit (fun g => ⟨hy g, hc⟩)
  · have hn : (onlyIf false (.ok []) : Run (List Write)) = .ok [] := rfl
    have := complement_fit h hn moveReg_fit (fun _ => .nil _ _ _) (u := dst) (by simp)
    simpa using this

theorem swapWrites_fit (s : State) (go : Bool) (xreg yreg : RegNum) :
    WritesFit s (swapWrites s go xreg yreg) [] [.r xreg, .s yreg] [] := by
  unfold swapWrites
  cases go
  · exact .nil _ _ _
  · exact (WritesFit.reg (u := .r xreg) rfl).append (WritesFit.reg (u := .s yreg) rfl)

theorem bitWrites_fit {s : State} {reg : SReg} {f : Word → Word} {w : List Write}
    (h : writesOf.bitWrites s reg f = .ok w) : WritesFit s w [] (withComplement s (.sys reg)) [] := by
  obtain ⟨wx, hx, h⟩ := (Run.bind_eq_ok _ _ _).mp h
  obtain ⟨wy, hy, h⟩ := (Run.bind_eq_ok _ _ _).mp h
  cases h
  exact complement_fit (go := true) hx hy regWrite_fit regWrite_fit (fun g => by simpa using g)

theorem testWrites_fit (s : State) (reg : SReg) (test : Word → Bool) :
    WritesFit s (writesOf.testWrites s reg test) [] (withComplement s (.sys .astatx)) [] := by
  have hx := WritesFit.reg (s := s) (u := .sys .astatx) (v := bus32 (withBtf s.x.astat (test (s.readSReg reg)))) rfl
  have hy := WritesFit.reg (s := s) (u := .sys .astaty)
    (v := bus32 (withBtf s.y.astat (test (s.readSReg (complementSReg reg))))) rfl
  unfold writesOf.testWrites withComplement
  cases s.simd
  · exact hx
  · exact hx.append hy

theorem cjumpWrites_fit (s : State) :
    WritesFit s (writesOf.cjumpWrites s) [] ([.r 2, .i 6] ++ if s.simd then [.s 2] else []) [] := by
  have hr := WritesFit.reg (s := s) (u := .r 2) (v := bus32 s.i[6]) rfl
  have hs := WritesFit.reg (s := s) (u := .s 2) (v := bus32 s.i[6]) rfl
  have hi := WritesFit.reg (s := s) (u := .i 6) (v := bus32 s.i[7]) rfl
  unfold writesOf.cjumpWrites indexWrite
  cases s.simd
  · exact hr.append hi
  · exact ((hr.append hs).append hi).mono (by simp [shownBy]) (by simp)

theorem elseWrites_fit (s : State) (p : CondPair) (els : Bool) (c : Compute) :
    WritesFit s (elseWrites s p els c) [] (computeDests s c) (mrWritten c).toList :=
  computeWrites_fit s c _ simd_of_and

/-- The writes of an instruction are sane, store to its cells and show only in its destinations. -/
abbrev InstrFits (i : Instr) (s : State) (ws : List Write) : Prop :=
  WritesFit s ws (storedCells i s) (destinations i s) (mrWritten i.compute).toList

theorem dualMove_fit {c : Compute} {dm : DregMove} {pm : DregMove} {s : State} {ws : List Write}
    (h : writesOf (.dualMove c dm pm) s = .ok ws) : InstrFits (.dualMove c dm pm) s ws := by
  obtain ⟨wd, hd, h⟩ := (Run.bind_eq_ok _ _ _).mp h
  obtain ⟨wp, hp, h⟩ := (Run.bind_eq_ok _ _ _).mp h
  cases h
  have h := ((((computeWrites_fit s c true id).append (xfer_fit id hd)).append (xfer_fit id hp)).append
    (postmodWrites_fit s true (Dag.dm.reg dm.i) (modifier s .dm dm.m))).append
    (postmodWrites_fit s true (Dag.pm.reg pm.i) (modifier s .pm pm.m))
  simp only [List.nil_append, List.append_nil] at h
  exact h

theorem ifCompute_fit {cond : Cond} {c : Compute} {s : State} {ws : List Write}
    (h : writesOf (.ifCompute cond c) s = .ok ws) : InstrFits (.ifCompute cond c) s ws := by
  by_cases hc : c = .nop
  · subst hc
    exact (WritesFit.nil s _ _).of_ok h
  · change (if c = .nop then _ else _) = _ at h
    rw [if_neg hc] at h
    obtain ⟨p, hp, h⟩ := (Run.bind_eq_ok _ _ _).mp h
    exact (computeWrites_fit s c _ (simd_of_evalCond hp)).of_ok h

theorem uregMove_fit {cond : Cond} {c : Compute} {g : Dag} {post : Bool} {i : Fin 8} {m : Fin 8} {store : Bool} {long
    : Bool} {u : UReg} {s : State} {ws : List Write}
    (h : writesOf (.uregMove cond c g post i m store long u) s = .ok ws) : InstrFits (.uregMove cond c g post i m
      store long u) s ws := by
  change (if sameDag g u = true then _ else _) = _ at h
  split at h
  · exact absurd h (refuse_ne_ok _ _)
  · obtain ⟨p, hp, h⟩ := (Run.bind_eq_ok _ _ _).mp h
    obtain ⟨w, hw, h⟩ := (Run.bind_eq_ok _ _ _).mp h
    have hy := simd_of_evalCond hp
    obtain rfl := elementsOf_eq hp
    exact (move_fit (computeWrites_fit s c _ hy) (xfer_fit hy hw) (by simp +contextual) _ _).of_ok h

theorem dregMoveImm_fit {cond : Cond} {c : Compute} {g : Dag} {post : Bool} {i : Fin 8} {data : BitVec 6} {store :
    Bool} {reg : RegNum} {s : State} {ws : List Write}
    (h : writesOf (.dregMoveImm cond c g post i data store reg) s = .ok ws) : InstrFits (.dregMoveImm cond c g post i
      data store reg) s ws := by
  obtain ⟨p, hp, h⟩ := (Run.bind_eq_ok _ _ _).mp h
  obtain ⟨w, hw, h⟩ := (Run.bind_eq_ok _ _ _).mp h
  have hy := simd_of_evalCond hp
  obtain rfl := elementsOf_eq hp
  exact (move_fit (computeWrites_fit s c _ hy) (xfer_fit hy hw) (by simp +contextual) _ _).of_ok h

theorem uregToUreg_fit {cond : Cond} {c : Compute} {dst : UReg} {src : UReg} {s : State} {ws : List Write}
    (h : writesOf (.uregToUreg cond c dst src) s = .ok ws) : InstrFits (.uregToUreg cond c dst src) s ws := by
  obtain ⟨p, hp, h⟩ := (Run.bind_eq_ok _ _ _).mp h
  obtain ⟨w, hw, h⟩ := (Run.bind_eq_ok _ _ _).mp h
  have hy := simd_of_evalCond hp
  exact ((computeWrites_fit s c _ hy).beside (uregTransfer_fit hy hw)).of_ok h

theorem swap_fit {cond : Cond} {c : Compute} {xreg : RegNum} {yreg : RegNum} {s : State} {ws : List Write}
    (h : writesOf (.swap cond c xreg yreg) s = .ok ws) : InstrFits (.swap cond c xreg yreg) s ws := by
  obtain ⟨p, hp, h⟩ := (Run.bind_eq_ok _ _ _).mp h
  have hy := simd_of_evalCond hp
  exact ((computeWrites_fit s c _ hy).beside (swapWrites_fit s _ xreg yreg)).of_ok h

theorem shiftImmMove_fit {cond : Cond} {sh : ShiftImm} {g : Dag} {mv : DregMove} {s : State} {ws : List Write}
    (h : writesOf (.shiftImmMove cond sh g mv) s = .ok ws) : InstrFits (.shiftImmMove cond sh g mv) s ws := by
  obtain ⟨p, hp, h⟩ := (Run.bind_eq_ok _ _ _).mp h
  obtain ⟨w, hw, h⟩ := (Run.bind_eq_ok _ _ _).mp h
  have hy := simd_of_evalCond hp
  obtain rfl := elementsOf_eq hp
  exact (move_fit (post := true) (shiftImmWrites_fit s sh _ hy) (xfer_fit hy hw) (fun _ => rfl) _ _).of_ok h

theorem shiftImm_fit {cond : Cond} {sh : ShiftImm} {s : State} {ws : List Write}
    (h : writesOf (.shiftImm cond sh) s = .ok ws) : InstrFits (.shiftImm cond sh) s ws := by
  obtain ⟨p, hp, h⟩ := (Run.bind_eq_ok _ _ _).mp h
  exact (shiftImmWrites_fit s sh _ (simd_of_evalCond hp)).of_ok h

theorem modifyReg_fit {cond : Cond} {c : Compute} {g : Dag} {i : Fin 8} {m : Fin 8} {s : State} {ws : List Write}
    (h : writesOf (.modifyReg cond c g i m) s = .ok ws) : InstrFits (.modifyReg cond c g i m) s ws := by
  obtain ⟨p, hp, h⟩ := (Run.bind_eq_ok _ _ _).mp h
  have hm : WritesFit s (if p.cx || p.cy then modifyWrites s (g.reg i) (modifier s g m) else []) []
      (indexDests (g.reg i)) [] := by
    split
    · exact indexWrites_fit _ _ _ _
    · exact .nil _ _ _
  exact ((computeWrites_fit s c _ (simd_of_evalCond hp)).beside hm).of_ok h

theorem jumpInd_fit {cond : Cond} {mods : JumpMods} {els : Bool} {i : Fin 8} {m : Fin 8} {c : Compute} {s : State}
    {ws : List Write}
    (h : writesOf (.jumpInd cond mods els i m c) s = .ok ws) : InstrFits (.jumpInd cond mods els i m c) s ws := by
  obtain ⟨p, hp, h⟩ := (Run.bind_eq_ok _ _ _).mp h
  exact ((elseWrites_fit s p els c).mono (fun _ => List.mem_append_left _) (fun _ hk => hk)).of_ok h

theorem jumpRel6_fit {cond : Cond} {mods : JumpMods} {els : Bool} {rel : BitVec 6} {c : Compute} {s : State} {ws :
    List Write}
    (h : writesOf (.jumpRel6 cond mods els rel c) s = .ok ws) : InstrFits (.jumpRel6 cond mods els rel c) s ws := by
  obtain ⟨p, hp, h⟩ := (Run.bind_eq_ok _ _ _).mp h
  exact ((elseWrites_fit s p els c).mono (fun _ => List.mem_append_left _) (fun _ hk => hk)).of_ok h

theorem callInd_fit {cond : Cond} {delayed : Bool} {els : Bool} {i : Fin 8} {m : Fin 8} {c : Compute} {s : State} {ws
    : List Write}
    (h : writesOf (.callInd cond delayed els i m c) s = .ok ws) : InstrFits (.callInd cond delayed els i m c) s ws :=
      by
  obtain ⟨p, hp, h⟩ := (Run.bind_eq_ok _ _ _).mp h
  exact ((elseWrites_fit s p els c).mono (fun _ => List.mem_append_left _) (fun _ hk => hk)).of_ok h

theorem callRel6_fit {cond : Cond} {delayed : Bool} {els : Bool} {rel : BitVec 6} {c : Compute} {s : State} {ws :
    List Write}
    (h : writesOf (.callRel6 cond delayed els rel c) s = .ok ws) : InstrFits (.callRel6 cond delayed els rel c) s ws
      := by
  obtain ⟨p, hp, h⟩ := (Run.bind_eq_ok _ _ _).mp h
  exact ((elseWrites_fit s p els c).mono (fun _ => List.mem_append_left _) (fun _ hk => hk)).of_ok h

theorem rts_fit {cond : Cond} {delayed : Bool} {els : Bool} {lr : Bool} {c : Compute} {s : State} {ws : List Write}
    (h : writesOf (.rts cond delayed els lr c) s = .ok ws) : InstrFits (.rts cond delayed els lr c) s ws := by
  obtain ⟨p, hp, h⟩ := (Run.bind_eq_ok _ _ _).mp h
  exact ((elseWrites_fit s p els c).mono (fun _ => List.mem_append_left _) (fun _ hk => hk)).of_ok h

theorem rti_fit {cond : Cond} {delayed : Bool} {els : Bool} {c : Compute} {s : State} {ws : List Write}
    (h : writesOf (.rti cond delayed els c) s = .ok ws) : InstrFits (.rti cond delayed els c) s ws := by
  obtain ⟨p, hp, h⟩ := (Run.bind_eq_ok _ _ _).mp h
  exact ((elseWrites_fit s p els c).mono
    (fun _ hu => List.mem_append_left _ (List.mem_append_left _ (List.mem_append_left _ hu))) (fun _ hk => hk)).of_ok
      h

theorem jumpIndElse_fit {cond : Cond} {i : Fin 8} {m : Fin 8} {c : Compute} {mv : DregMove} {s : State} {ws : List
    Write}
    (h : writesOf (.jumpIndElse cond i m c mv) s = .ok ws) : InstrFits (.jumpIndElse cond i m c mv) s ws := by
  obtain ⟨p, hp, h⟩ := (Run.bind_eq_ok _ _ _).mp h
  obtain ⟨w, hw, h⟩ := (Run.bind_eq_ok _ _ _).mp h
  obtain rfl := elementsOf_eq hp
  exact (move_fit (post := true) (computeWrites_fit s c _ simd_of_and) (xfer_fit simd_of_and hw)
    (fun _ => rfl) _ _).of_ok h

theorem jumpRelElse_fit {cond : Cond} {rel : BitVec 6} {c : Compute} {mv : DregMove} {s : State} {ws : List Write}
    (h : writesOf (.jumpRelElse cond rel c mv) s = .ok ws) : InstrFits (.jumpRelElse cond rel c mv) s ws := by
  obtain ⟨p, hp, h⟩ := (Run.bind_eq_ok _ _ _).mp h
  obtain ⟨w, hw, h⟩ := (Run.bind_eq_ok _ _ _).mp h
  obtain rfl := elementsOf_eq hp
  exact (move_fit (post := true) (computeWrites_fit s c _ simd_of_and) (xfer_fit simd_of_and hw)
    (fun _ => rfl) _ _).of_ok h

theorem doCountReg_fit {u : UReg} {rel : BitVec 24} {s : State} {ws : List Write}
    (h : writesOf (.doCountReg u rel) s = .ok ws) : InstrFits (.doCountReg u rel) s ws := by
  change (if u = .px then _ else _) = _ at h
  split at h
  · exact absurd h (refuse_ne_ok _ _)
  · exact (WritesFit.nil s _ _).of_ok h

theorem storeIndexed_fit {g : Dag} {i : Fin 8} {long : Bool} {u : UReg} {data : Word} {s : State} {ws : List Write}
    (h : writesOf (.storeIndexed g i long u data) s = .ok ws) : InstrFits (.storeIndexed g i long u data) s ws := by
  change (if sameDag g u = true then _ else _) = _ at h
  split at h
  · exact absurd h (refuse_ne_ok _ _)
  · exact (xfer_fit id h).mono (fun _ hu => hu) (fun _ hk => hk)

theorem loadIndexed_fit {g : Dag} {i : Fin 8} {long : Bool} {u : UReg} {data : Word} {s : State} {ws : List Write}
    (h : writesOf (.loadIndexed g i long u data) s = .ok ws) : InstrFits (.loadIndexed g i long u data) s ws := by
  change (if sameDag g u = true then _ else _) = _ at h
  split at h
  · exact absurd h (refuse_ne_ok _ _)
  · exact (xfer_fit id h).mono (fun _ hu => hu) (fun _ hk => hk)

theorem storeImm_fit {g : Dag} {i : Fin 8} {m : Fin 8} {data : Word} {s : State} {ws : List Write}
    (h : writesOf (.storeImm g i m data) s = .ok ws) : InstrFits (.storeImm g i m data) s ws := by
  obtain ⟨wx, hx, h⟩ := (Run.bind_eq_ok _ _ _).mp h
  obtain ⟨wy, hy, h⟩ := (Run.bind_eq_ok _ _ _).mp h
  have hf := ((storeCell_fit hx).append (onlyIf_fit storeCell_fit hy)).append
    (postmodWrites_fit s true (g.reg i) (modifier s g m))
  simp only [List.append_nil, ite_self] at hf
  exact hf.of_ok h

theorem loadImm_fit {u : UReg} {data : Word} {s : State} {ws : List Write}
    (h : writesOf (.loadImm u data) s = .ok ws) : InstrFits (.loadImm u data) s ws := by
  change (if u = .px then _ else _) = _ at h
  split at h
  · exact absurd h (refuse_ne_ok _ _)
  · obtain ⟨wx, hx, h⟩ := (Run.bind_eq_ok _ _ _).mp h
    obtain ⟨wy, hy, h⟩ := (Run.bind_eq_ok _ _ _).mp h
    exact (complement_fit (go := true) hx hy regWrite_fit regWrite_fit (fun g => by simpa using g)).of_ok h

theorem bitSet_fit {reg : SReg} {data : Word} {s : State} {ws : List Write}
    (h : writesOf (.bitSet reg data) s = .ok ws) : InstrFits (.bitSet reg data) s ws :=
  bitWrites_fit (f := fun v => v ||| data) h

theorem bitClr_fit {reg : SReg} {data : Word} {s : State} {ws : List Write}
    (h : writesOf (.bitClr reg data) s = .ok ws) : InstrFits (.bitClr reg data) s ws :=
  bitWrites_fit (f := fun v => v &&& ~~~data) h

theorem bitTgl_fit {reg : SReg} {data : Word} {s : State} {ws : List Write}
    (h : writesOf (.bitTgl reg data) s = .ok ws) : InstrFits (.bitTgl reg data) s ws :=
  bitWrites_fit (f := fun v => v ^^^ data) h

/-- Whatever an instruction writes fits it. -/
theorem writesOf_fit {i : Instr} {s : State} {ws : List Write} (h : writesOf i s = .ok ws) : InstrFits i s ws := by
  by_cases ha : standsAlone i = true
  · rw [writesOf_alone ha] at h
    unfold InstrFits
    rw [storedCells_alone ha, destinations_alone ha]
    exact (computeWrites_fit s _ true id).of_ok h
  cases i
  case dualMove => exact dualMove_fit h
  case ifCompute => exact ifCompute_fit h
  case uregMove => exact uregMove_fit h
  case dregMoveImm => exact dregMoveImm_fit h
  case uregToUreg => exact uregToUreg_fit h
  case swap => exact swap_fit h
  case shiftImmMove => exact shiftImmMove_fit h
  case shiftImm => exact shiftImm_fit h
  case modifyReg => exact modifyReg_fit h
  case jumpAbs | jumpRel | callAbs | callRel =>
    obtain ⟨p, hp, h⟩ := (Run.bind_eq_ok _ _ _).mp h
    exact (WritesFit.nil s _ _).of_ok h
  case jumpInd => exact jumpInd_fit h
  case jumpRel6 => exact jumpRel6_fit h
  case callInd => exact callInd_fit h
  case callRel6 => exact callRel6_fit h
  case rts => exact rts_fit h
  case rti => exact rti_fit h
  case jumpIndElse => exact jumpIndElse_fit h
  case jumpRelElse => exact jumpRelElse_fit h
  case doCountReg => exact doCountReg_fit h
  case storeDirect g long u addr => exact (xfer_fit (k := none) id h).mono (fun _ hu => hu) (fun _ hk => hk)
  case loadDirect g long u addr => exact (xfer_fit (k := none) id h).mono (fun _ hu => hu) (fun _ hk => hk)
  case storeIndexed => exact storeIndexed_fit h
  case loadIndexed => exact loadIndexed_fit h
  case storeImm => exact storeImm_fit h
  case loadImm => exact loadImm_fit h
  case bitSet reg data => exact bitSet_fit h
  case bitClr reg data => exact bitClr_fit h
  case bitTgl reg data => exact bitTgl_fit h
  case bitTst | bitXor => exact (testWrites_fit s _ _).of_ok h
  case modifyImm | bitrev => exact (indexWrites_fit s _ _ _).of_ok h
  case cjumpAbs | cjumpRel => exact (cjumpWrites_fit s).of_ok h
  case rframe =>
    obtain ⟨v, hv, h⟩ := (Run.bind_eq_ok _ _ _).mp h
    exact ((WritesFit.reg (u := .i 7) rfl).append (WritesFit.reg (u := .i 6) rfl)).of_ok h
  case doCountImm | doUntil | pushPcstk | pushLoop | pushSts | popLoop | popSts | popPcstk | flushCache | stackNone
    | nop | idle => exact (WritesFit.nil s _ _).of_ok h
  all_goals exact absurd rfl ha

end Sys2Proof.Machine
end

section
/-! The sequencer's part of an instruction as a chain of a few operations (41_program_flow.md R260 to R283, 43_misc.md R338
to R346): which of them an instruction makes, and what each of them changes. -/

-- One proof at a time: each thread that elaborates beside another reserves a gigabyte of the check's memory.
set_option Elab.async false

namespace Sys2Proof.Machine

/-! ### The operations -/

/-- The operations the sequencer's part of an instruction is made of. -/
inductive TailOp
  | branch | pushPc | popPc | pushLoop | popLoop | pushSts | popSts | endInterrupt | setCount | flush | idle
  deriving DecidableEq

/-- What an operation can do to a state. -/
def TailOp.Does (o : TailOp) (s t : State) : Prop :=
  match o with
  | .branch => ∃ a d la, t = requestBranch s a d la
  | .pushPc => ∃ p : PcEntry, s.pcStack.length < s.params.pcDepth ∧ t = { s with pcStack := p :: s.pcStack }
  | .popPc => ∃ p rest, s.pcStack = p :: rest ∧ t = { s with pcStack := rest }
  | .pushLoop => ∃ e : LoopEntry, s.loops.length < s.params.loopDepth ∧ t = { s with loops := e :: s.loops }
  | .popLoop => ∃ e rest, s.loops = e :: rest ∧ t = { s with loops := rest }
  | .pushSts =>
    s.sts.length < s.params.stsDepth ∧
      t = { s with sts := ⟨s.mode1, s.x.astat, s.y.astat⟩ :: s.sts, mode1 := maskedMode1 s }
  | .popSts =>
    ∃ e rest, s.sts = e :: rest ∧
      t = { s with
        sts := rest
        mode1 := e.mode1
        x := { s.x with astat := e.astatx }
        y := { s.y with astat := e.astaty } }
  | .endInterrupt => t = clearInterrupt s
  | .setCount => ∃ v, t = { s with lcntr := v }
  | .flush => t = { s with stale := [] }
  | .idle => t = { s with idle := true }

/-- A chain of operations, each one of `ops`. -/
inductive Chain (ops : List TailOp) : State → State → Prop
  | done (s : State) : Chain ops s s
  | step {s t u : State} {o : TailOp} (ho : o ∈ ops) (h : o.Does s t) (rest : Chain ops t u) : Chain ops s u

theorem Chain.one {ops : List TailOp} {o : TailOp} {s t : State} (ho : o ∈ ops) (h : o.Does s t) : Chain ops s t :=
  .step ho h (.done t)

theorem Chain.single {o : TailOp} {s t : State} (h : o.Does s t) : Chain [o] s t := .one List.mem_cons_self h

theorem Chain.trans {ops : List TailOp} {s t u : State} (h : Chain ops s t) (h' : Chain ops t u) : Chain ops s u := by
  induction h with
  | done => exact h'
  | step ho hd _ ih => exact .step ho hd (ih h')

theorem Chain.mono {ops ops' : List TailOp} {s t : State} (h : Chain ops s t) (hm : ∀ o ∈ ops, o ∈ ops') :
    Chain ops' s t := by
  induction h with
  | done => exact .done _
  | step ho hd _ ih => exact .step (hm _ ho) hd ih

theorem Chain.append {ops ops' : List TailOp} {s t u : State} (h : Chain ops s t) (h' : Chain ops' t u) :
    Chain (ops ++ ops') s u :=
  (h.mono fun _ => List.mem_append_left _).trans (h'.mono fun _ => List.mem_append_right _)

/-- What every operation keeps, a chain keeps. -/
theorem Chain.keeps {ops : List TailOp} {s t : State} (h : Chain ops s t) {P : State → Prop}
    (hk : ∀ o ∈ ops, ∀ s t, o.Does s t → P s → P t) : P s → P t := by
  induction h with
  | done => exact id
  | step ho hd _ ih => exact fun hp => ih (hk _ ho _ _ hd hp)

/-! ### The operations of an instruction -/

/-- The operations of a taken jump. -/
def jumpOps (mods : JumpMods) : List TailOp :=
  .branch :: (if mods.clearInterrupt then [.endInterrupt] else []) ++ if mods.loopAbort then [.popLoop, .popPc] else []

/-- A flush when the word asks for it. -/
def flushOps (fl : Bool) : List TailOp := if fl then [.flush] else []

/-- The operations the sequencer's part of an instruction is made of. -/
def tailOps : Instr → List TailOp
  | .jumpAbs _ mods _ | .jumpRel _ mods _ | .jumpInd _ mods _ _ _ _ | .jumpRel6 _ mods _ _ _ => jumpOps mods
  | .callAbs .. | .callRel .. | .callInd .. | .callRel6 .. => [.pushPc, .branch]
  | .jumpIndElse .. | .jumpRelElse .. | .cjumpAbs _ | .cjumpRel _ => [.branch]
  | .rts .. => [.popPc, .branch]
  | .rti .. => [.popPc, .popSts, .endInterrupt, .branch]
  | .doCountImm .. | .doCountReg .. => [.setCount, .pushPc, .pushLoop]
  | .doUntil .. => [.pushPc, .pushLoop]
  | .pushPcstk fl => .pushPc :: flushOps fl
  | .pushLoop sts pcstk fl =>
    .pushLoop :: (if sts then [.pushSts] else []) ++ (if pcstk then [.pushPc] else []) ++ flushOps fl
  | .pushSts pcstk fl => .pushSts :: (if pcstk then [.pushPc] else []) ++ flushOps fl
  | .popLoop sts pcstk fl =>
    .popLoop :: (if sts then [.popSts] else []) ++ (if pcstk then [.popPc] else []) ++ flushOps fl
  | .popSts pcstk fl => .popSts :: (if pcstk then [.popPc] else []) ++ flushOps fl
  | .popPcstk fl => .popPc :: flushOps fl
  | .flushCache => [.flush]
  | .idle => [.idle]
  | _ => []

/-! ### Each shared operation as a chain -/

theorem pushPc_does {s t : State} {source : PcSource} {a : ProgAddr} (h : pushPc s source a = .ok t) :
    TailOp.pushPc.Does s t :=
  ⟨_, (pushPc_eq_ok s t source a).mp h⟩

theorem popPc_does {s t : State} {a : ProgAddr} (h : popPc s = .ok (a, t)) : TailOp.popPc.Does s t := by
  obtain ⟨p, rest, hp, -, rfl⟩ := (popPc_eq_ok s t a).mp h
  exact ⟨p, rest, hp, rfl⟩

theorem dropPc_does {s t : State} (h : dropPc s = .ok t) : TailOp.popPc.Does s t := by
  obtain ⟨⟨a, u⟩, hp, h⟩ := (Run.bind_eq_ok _ _ _).mp h
  cases h
  exact popPc_does hp

theorem pushLoop_does {s t : State} {e : LoopEntry} (h : pushLoop s e = .ok t) : TailOp.pushLoop.Does s t :=
  ⟨e, (pushLoop_eq_ok s t e).mp h⟩

theorem popLoop_does {s t : State} (h : popLoop s = .ok t) : TailOp.popLoop.Does s t := (popLoop_eq_ok s t).mp h

theorem pushSts_does {s t : State} (h : pushSts s = .ok t) : TailOp.pushSts.Does s t := (pushSts_eq_ok s t).mp h

theorem popSts_does {s t : State} (h : popSts s = .ok t) : TailOp.popSts.Does s t := (popSts_eq_ok s t).mp h

/-- A stack action that is made only when the word asks for it. -/
theorem whenSet_chain {go : Bool} {act : State → Run State} {o : TailOp} {s t : State}
    (ha : act s = .ok t → o.Does s t) (h : whenSet go act s = .ok t) : Chain (if go then [o] else []) s t := by
  cases go
  · cases h
    exact .done _
  · exact .one (by simp) (ha h)

theorem flushIf_chain (s : State) (fl : Bool) : Chain (flushOps fl) s (flushIf s fl) := by
  cases fl
  · exact .done _
  · exact .one (o := .flush) (by simp [flushOps]) rfl

theorem abortLoop_chain {s t : State} (h : abortLoop s = .ok t) : Chain [.popLoop, .popPc] s t := by
  obtain ⟨e, rest, p, more, hl, hp, rfl⟩ := (abortLoop_eq_ok s t).mp h
  exact .step (o := .popLoop) (t := { s with loops := rest }) (by simp) ⟨e, rest, hl, rfl⟩
    (.one (o := .popPc) (by simp) ⟨p, more, hp, rfl⟩)

theorem branch_chain {ops : List TailOp} (ho : TailOp.branch ∈ ops) (s : State) (a : ProgAddr) (d la : Bool) :
    Chain ops s (requestBranch s a d la) := .one ho ⟨a, d, la, rfl⟩

theorem jumpTo_chain {s t : State} {mods : JumpMods} {a : ProgAddr} (h : jumpTo s mods a = .ok t) :
    Chain (jumpOps mods) s t := by
  have hi : Chain (jumpOps mods) s (if mods.clearInterrupt then clearInterrupt s else s) := by
    split
    · exact .one (o := .endInterrupt) (by simp [jumpOps, *]) rfl
    · exact .done _
  refine hi.trans ?_
  unfold jumpTo at h
  dsimp only at h
  split at h
  · rename_i hla
    simp only [Bool.and_eq_true] at hla
    obtain ⟨u, hu, h⟩ := (Run.bind_eq_ok _ _ _).mp h
    cases h
    refine ((abortLoop_chain hu).mono ?_).trans (branch_chain (by simp [jumpOps]) _ _ _ _)
    simp [jumpOps, hla.1]
  · cases h
    exact branch_chain (by simp [jumpOps]) _ _ _ _

theorem callTo_chain {s t : State} {d : Bool} {a : ProgAddr} (h : callTo s d a = .ok t) :
    Chain [.pushPc, .branch] s t := by
  obtain ⟨u, hu, h⟩ := (Run.bind_eq_ok _ _ _).mp h
  cases h
  exact .step (by simp) (pushPc_does hu) (branch_chain (by simp) _ _ _ _)

theorem returnTo_chain {s t : State} {d lr : Bool} (h : returnTo s d lr = .ok t) : Chain [.popPc, .branch] s t := by
  obtain ⟨⟨a, u⟩, hu, h⟩ := (Run.bind_eq_ok _ _ _).mp h
  dsimp only at h
  split at h
  · exact absurd h (refuse_ne_ok _ _)
  · cases h
    exact .step (by simp) (popPc_does hu) (branch_chain (by simp) _ _ _ _)

theorem interruptReturn_chain {s t : State} {d : Bool} (h : interruptReturn s d = .ok t) :
    Chain [.popPc, .popSts, .endInterrupt, .branch] s t := by
  obtain ⟨⟨a, u⟩, hu, h⟩ := (Run.bind_eq_ok _ _ _).mp h
  cases h
  obtain ⟨p, rest, v, hp, -, hv, rfl⟩ := (returnFromInterrupt_eq_ok s u a).mp hu
  refine .step (o := .popPc) (by simp) ⟨p, rest, hp, rfl⟩ (.trans ?_ (.step (o := .endInterrupt) (by simp) rfl
    (branch_chain (by simp) _ _ _ _)))
  exact (whenSet_chain popSts_does hv).mono (by cases (s.currentInterrupt.any (pushesStatus s)) <;> simp)

theorem setUpLoop_chain {s t : State} {term : Cond} {rel : BitVec 24} (h : setUpLoop s term rel = .ok t) :
    Chain [.pushPc, .pushLoop] s t := by
  unfold setUpLoop at h
  split at h
  · exact absurd h (refuse_ne_ok _ _)
  · obtain ⟨u, hu, h⟩ := (Run.bind_eq_ok _ _ _).mp h
    exact .step (by simp) (pushPc_does hu) (.one (by simp) (pushLoop_does h))

theorem ite_chain {ops : List TailOp} {go : Bool} {r : Run State} {t u : State} (hr : r = .ok u → Chain ops t u)
    (h : (if go = true then r else pure t) = .ok u) : Chain ops t u := by
  cases go
  · cases h
    exact .done _
  · exact hr h

/-- The sequencer's part of an instruction is a chain of its operations. -/
theorem tailOf_chain {i : Instr} {s t u : State} (h : tailOf i s t = .ok u) : Chain (tailOps i) t u := by
  by_cases ha : standsAlone i = true
  · rw [tailOf_alone ha] at h
    cases h
    exact .done _
  cases i
  case jumpAbs | jumpRel | jumpInd | jumpRel6 => exact ite_chain jumpTo_chain h
  case callAbs | callRel | callInd | callRel6 => exact ite_chain callTo_chain h
  case jumpIndElse | jumpRelElse =>
    cases h
    split
    · exact branch_chain (List.mem_singleton.mpr rfl) _ _ _ _
    · exact .done _
  case cjumpAbs | cjumpRel =>
    cases h
    exact branch_chain (List.mem_singleton.mpr rfl) _ _ _ _
  case rts => exact ite_chain returnTo_chain h
  case rti => exact ite_chain interruptReturn_chain h
  case doCountImm =>
    exact .step (o := .setCount) List.mem_cons_self ⟨_, rfl⟩ ((setUpLoop_chain h).mono fun _ => List.mem_cons_of_mem _)
  case doCountReg =>
    obtain ⟨v, -, h⟩ := (Run.bind_eq_ok _ _ _).mp h
    exact .step (o := .setCount) List.mem_cons_self ⟨_, rfl⟩ ((setUpLoop_chain h).mono fun _ => List.mem_cons_of_mem _)
  case doUntil => exact setUpLoop_chain h
  case pushPcstk fl =>
    obtain ⟨v, hv, h⟩ := (Run.bind_eq_ok _ _ _).mp h
    cases h
    exact (Chain.single (pushPc_does hv)).append (flushIf_chain v fl)
  case pushLoop sts pcstk fl =>
    obtain ⟨v, hv, h⟩ := (Run.bind_eq_ok _ _ _).mp h
    obtain ⟨w, hw, h⟩ := (Run.bind_eq_ok _ _ _).mp h
    obtain ⟨x, hx, h⟩ := (Run.bind_eq_ok _ _ _).mp h
    cases h
    exact (((Chain.single (pushLoop_does hv)).append (whenSet_chain pushSts_does hw)).append
      (whenSet_chain pushPc_does hx)).append (flushIf_chain x fl)
  case pushSts pcstk fl =>
    obtain ⟨v, hv, h⟩ := (Run.bind_eq_ok _ _ _).mp h
    obtain ⟨w, hw, h⟩ := (Run.bind_eq_ok _ _ _).mp h
    cases h
    exact ((Chain.single (pushSts_does hv)).append (whenSet_chain pushPc_does hw)).append (flushIf_chain w fl)
  case popLoop sts pcstk fl =>
    obtain ⟨v, hv, h⟩ := (Run.bind_eq_ok _ _ _).mp h
    obtain ⟨w, hw, h⟩ := (Run.bind_eq_ok _ _ _).mp h
    obtain ⟨x, hx, h⟩ := (Run.bind_eq_ok _ _ _).mp h
    cases h
    exact (((Chain.single (popLoop_does hv)).append (whenSet_chain popSts_does hw)).append
      (whenSet_chain dropPc_does hx)).append (flushIf_chain x fl)
  case popSts pcstk fl =>
    obtain ⟨v, hv, h⟩ := (Run.bind_eq_ok _ _ _).mp h
    obtain ⟨w, hw, h⟩ := (Run.bind_eq_ok _ _ _).mp h
    cases h
    exact ((Chain.single (popSts_does hv)).append (whenSet_chain dropPc_does hw)).append (flushIf_chain w fl)
  case popPcstk fl =>
    obtain ⟨v, hv, h⟩ := (Run.bind_eq_ok _ _ _).mp h
    cases h
    exact (Chain.single (dropPc_does hv)).append (flushIf_chain v fl)
  case flushCache =>
    cases h
    exact flushIf_chain t true
  case idle =>
    cases h
    exact .single (o := .idle) rfl
  case dualMove | ifCompute | uregMove | dregMoveImm | uregToUreg | swap | shiftImmMove | shiftImm | modifyReg
    | storeDirect | loadDirect | storeIndexed | loadIndexed | storeImm | loadImm | bitSet | bitClr | bitTgl | bitTst
    | bitXor | modifyImm | bitrev | stackNone | nop | rframe =>
    cases h
    exact .done _
  all_goals exact absurd rfl ha

end Sys2Proof.Machine
end

section
/-! The frames of the instructions (20_memory.md R103 to R127, 10_state.md R50 to R63): what every instruction leaves of the
registers, the memory and the stale addresses, each from its writes and from its chain of operations. -/

-- One proof at a time: each thread that elaborates beside another reserves a gigabyte of the check's memory.
set_option Elab.async false

namespace Sys2Proof.Machine

/-! ### What an operation of the sequencer keeps -/

/-- The names a sequencer operation changes the reading of. -/
def TailOp.shows : TailOp → List UReg
  | .pushPc | .popPc => pcStackRegs
  | .pushLoop | .popLoop => loopRegs
  | .pushSts | .popSts => statusRegs
  | .endInterrupt => interruptRegs
  | .setCount => [.lcntr]
  | .branch | .flush | .idle => []

/-- What neither the writes nor the sequencer's part of an instruction change: the step advances them. -/
def StepFields (s t : State) : Prop :=
  t.pc = s.pc ∧ t.params = s.params ∧ t.dbr = s.dbr ∧ t.clock = s.clock ∧ t.history = s.history ∧
    t.straight = s.straight ∧ t.mode1Changed = s.mode1Changed ∧ t.irqWait = s.irqWait

theorem StepFields.refl (s : State) : StepFields s s := ⟨rfl, rfl, rfl, rfl, rfl, rfl, rfl, rfl⟩

theorem StepFields.trans {s t u : State} (h : StepFields s t) (g : StepFields t u) : StepFields s u := by
  unfold StepFields at *
  simp_all

/-- All that the operations of the sequencer can change. -/
theorem does_eq {o : TailOp} {s t : State} (h : o.Does s t) :
    ∃ ps ls st m1 ax ay ir hi ip lc rq sl id,
      t = { s with
        pcStack := ps, loops := ls, sts := st, mode1 := m1, x := { s.x with astat := ax }, y := { s.y with astat := ay },
        irptl := ir, hostIrq := hi, imaskp := ip, lcntr := lc, request := rq, stale := sl, idle := id } ∧
      (o ≠ .flush → sl = s.stale) := by
  cases o
  case branch => obtain ⟨a, d, la, rfl⟩ := h; exact ⟨_, _, _, _, _, _, _, _, _, _, _, _, _, rfl, fun _ => rfl⟩
  case pushPc => obtain ⟨p, -, rfl⟩ := h; exact ⟨_, _, _, _, _, _, _, _, _, _, _, _, _, rfl, fun _ => rfl⟩
  case popPc => obtain ⟨p, rest, -, rfl⟩ := h; exact ⟨_, _, _, _, _, _, _, _, _, _, _, _, _, rfl, fun _ => rfl⟩
  case pushLoop => obtain ⟨e, -, rfl⟩ := h; exact ⟨_, _, _, _, _, _, _, _, _, _, _, _, _, rfl, fun _ => rfl⟩
  case popLoop => obtain ⟨e, rest, -, rfl⟩ := h; exact ⟨_, _, _, _, _, _, _, _, _, _, _, _, _, rfl, fun _ => rfl⟩
  case pushSts => obtain ⟨-, rfl⟩ := h; exact ⟨_, _, _, _, _, _, _, _, _, _, _, _, _, rfl, fun _ => rfl⟩
  case popSts => obtain ⟨e, rest, -, rfl⟩ := h; exact ⟨_, _, _, _, _, _, _, _, _, _, _, _, _, rfl, fun _ => rfl⟩
  case endInterrupt =>
    obtain rfl := h
    rcases clearInterrupt_eq s with h | ⟨k, -, h⟩ <;> rw [h] <;>
      exact ⟨_, _, _, _, _, _, _, _, _, _, _, _, _, rfl, fun _ => rfl⟩
  case setCount => obtain ⟨v, rfl⟩ := h; exact ⟨_, _, _, _, _, _, _, _, _, _, _, _, _, rfl, fun _ => rfl⟩
  case flush => obtain rfl := h; exact ⟨_, _, _, _, _, _, _, _, _, _, _, _, _, rfl, fun hf => absurd rfl hf⟩
  case idle => obtain rfl := h; exact ⟨_, _, _, _, _, _, _, _, _, _, _, _, _, rfl, fun _ => rfl⟩

theorem does_stepFields {o : TailOp} {s t : State} (h : o.Does s t) : StepFields s t := by
  obtain ⟨_, _, _, _, _, _, _, _, _, _, _, _, _, rfl, -⟩ := does_eq h
  exact .refl s

theorem does_mem {o : TailOp} {s t : State} (h : o.Does s t) : t.mem = s.mem := by
  obtain ⟨_, _, _, _, _, _, _, _, _, _, _, _, _, rfl, -⟩ := does_eq h
  rfl

theorem does_stale {o : TailOp} {s t : State} (h : o.Does s t) (ho : o ≠ .flush) : t.stale = s.stale := by
  obtain ⟨_, _, _, _, _, _, _, _, _, _, _, sl, _, rfl, hs⟩ := does_eq h
  exact hs ho

theorem does_mr {o : TailOp} {s t : State} (h : o.Does s t) (e : Element) (bank : MrBank) :
    (t.pe e).mr bank = (s.pe e).mr bank := by
  obtain ⟨_, _, _, _, _, _, _, _, _, _, _, _, _, rfl, -⟩ := does_eq h
  cases e <;> cases bank <;> rfl

/-! ### Readings -/

theorem readUReg_pcStack {u : UReg} (h : u ∉ pcStackRegs) (s : State) (ps : List PcEntry) :
    ({ s with pcStack := ps } : State).readUReg u = s.readUReg u := by
  cases u with
  | sys q =>
    cases q with
    | stkyx => exact absurd (by simp [pcStackRegs]) h
    | _ => rfl
  | pcstk | pcstkp => exact absurd (by simp [pcStackRegs]) h
  | _ => rfl

theorem readUReg_loops {u : UReg} (h : u ∉ loopRegs) (s : State) (ls : List LoopEntry) :
    ({ s with loops := ls } : State).readUReg u = s.readUReg u := by
  cases u with
  | sys q =>
    cases q with
    | stkyx => exact absurd (by simp [loopRegs]) h
    | _ => rfl
  | laddr | curlcntr | faddr | daddr => exact absurd (by simp [loopRegs]) h
  | _ => rfl

theorem readUReg_status {u : UReg} (h : u ∉ statusRegs) (s : State) (st : List StatusEntry) (m ax ay : Word) :
    ({ s with sts := st, mode1 := m, x := { s.x with astat := ax }, y := { s.y with astat := ay } } : State).readUReg u =
      s.readUReg u := by
  cases u with
  | sys q =>
    cases q with
    | mode1 | astatx | astaty | stkyx => exact absurd (by simp [statusRegs]) h
    | _ => rfl
  | _ => rfl

theorem readUReg_interrupt {u : UReg} (h : u ∉ interruptRegs) (s : State) (ir hi ip : Word) :
    ({ s with irptl := ir, hostIrq := hi, imaskp := ip } : State).readUReg u = s.readUReg u := by
  cases u with
  | sys q =>
    cases q with
    | irptl | imaskp | imask => exact absurd (by simp [interruptRegs]) h
    | _ => rfl
  | _ => rfl

theorem readUReg_lcntr {u : UReg} (h : u ≠ .lcntr) (s : State) (v : Word) :
    ({ s with lcntr := v } : State).readUReg u = s.readUReg u := by
  cases u with
  | sys q => cases q <;> rfl
  | lcntr => exact absurd rfl h
  | _ => rfl

theorem readUReg_bookkeeping (u : UReg) (s : State) (rq : Option BranchRequest) (sl : List Word) (id : Bool) :
    ({ s with request := rq, stale := sl, idle := id } : State).readUReg u = s.readUReg u := by
  cases u with
  | sys q => cases q <;> rfl
  | _ => rfl

/-- An operation shows only in the names it lists. -/
theorem does_readUReg {o : TailOp} {s t : State} {u : UReg} (h : o.Does s t) (hu : u ∉ o.shows) :
    t.readUReg u = s.readUReg u := by
  cases o
  case branch => obtain ⟨a, d, la, rfl⟩ := h; exact readUReg_bookkeeping u s _ _ _
  case pushPc => obtain ⟨p, -, rfl⟩ := h; exact readUReg_pcStack hu s _
  case popPc => obtain ⟨p, rest, -, rfl⟩ := h; exact readUReg_pcStack hu s _
  case pushLoop => obtain ⟨e, -, rfl⟩ := h; exact readUReg_loops hu s _
  case popLoop => obtain ⟨e, rest, -, rfl⟩ := h; exact readUReg_loops hu s _
  case pushSts => obtain ⟨-, rfl⟩ := h; exact readUReg_status hu s _ _ s.x.astat s.y.astat
  case popSts => obtain ⟨e, rest, -, rfl⟩ := h; exact readUReg_status hu s _ _ _ _
  case endInterrupt =>
    obtain rfl := h
    rcases clearInterrupt_eq s with h | ⟨k, -, h⟩ <;> rw [h]
    exact readUReg_interrupt hu s _ _ _
  case setCount => obtain ⟨v, rfl⟩ := h; exact readUReg_lcntr (by simpa [TailOp.shows] using hu) s v
  case flush => obtain rfl := h; exact readUReg_bookkeeping u s _ _ _
  case idle => obtain rfl := h; exact readUReg_bookkeeping u s _ _ _

/-! ### Both parts of an instruction -/

/-- An instruction that answers: its writes, made together, and its chain of operations. -/
theorem exec_parts {i : Instr} {s t : State} (h : exec i s = .next t) :
    ∃ ws, InstrFits i s ws ∧ (ws.flatMap Write.places).Nodup ∧ tailOf i s (ws.foldl Write.apply s) = .ok t := by
  rw [exec_eq, Run.outcome_eq_next] at h
  obtain ⟨ws, hw, h⟩ := (Run.bind_eq_ok _ _ _).mp h
  obtain ⟨u, hu, h⟩ := (Run.bind_eq_ok _ _ _).mp h
  obtain ⟨hn, rfl⟩ := (commit_eq_ok s u ws).mp hu
  exact ⟨ws, writesOf_fit hw, hn, h⟩

/-! ### Registers -/

/-- The operations show only in the names listed. -/
def OpsShow (ops : List TailOp) (d : List UReg) : Prop := ∀ o ∈ ops, ∀ u ∈ o.shows, u ∈ d

theorem OpsShow.nil (d : List UReg) : OpsShow [] d := by simp [OpsShow]

theorem OpsShow.single (o : TailOp) : OpsShow [o] o.shows := by
  intro p hp u hu
  rwa [List.mem_singleton.mp hp] at hu

theorem OpsShow.left {ops : List TailOp} {d : List UReg} (h : OpsShow ops d) (d' : List UReg) :
    OpsShow ops (d ++ d') := fun o ho u hu => List.mem_append_left _ (h o ho u hu)

theorem OpsShow.right {ops : List TailOp} {d : List UReg} (h : OpsShow ops d) (d' : List UReg) :
    OpsShow ops (d' ++ d) := fun o ho u hu => List.mem_append_right _ (h o ho u hu)

theorem OpsShow.append {ops ops' : List TailOp} {d d' : List UReg} (h : OpsShow ops d) (h' : OpsShow ops' d') :
    OpsShow (ops ++ ops') (d ++ d') := fun o ho =>
  (List.mem_append.mp ho).elim (h.left d' o) (h'.right d o)

theorem OpsShow.silent {ops ops' : List TailOp} {d : List UReg} (h : OpsShow ops d) (h' : OpsShow ops' []) :
    OpsShow (ops ++ ops') d := by
  simpa only [List.append_nil] using h.append h'

theorem OpsShow.ite (go : Bool) (o : TailOp) : OpsShow (if go then [o] else []) (if go then o.shows else []) := by
  cases go
  · exact .nil _
  · exact .single o

theorem flushOps_show (fl : Bool) : OpsShow (flushOps fl) [] := by
  cases fl
  · exact .nil _
  · exact .single .flush

theorem branch_show : OpsShow [.branch] [] := .single .branch

theorem jumpOps_show (mods : JumpMods) : OpsShow (jumpOps mods) (jumpDests mods) := by
  have hi : OpsShow (if mods.clearInterrupt then [.endInterrupt] else [])
      (if mods.clearInterrupt then interruptRegs else []) := .ite _ _
  have ha : OpsShow (if mods.loopAbort then [.popLoop, .popPc] else [])
      (if mods.loopAbort then pcStackRegs ++ loopRegs else []) := by
    cases mods.loopAbort
    · exact .nil _
    · exact fun o ho => ((OpsShow.single .popPc).append (.single .popLoop)) o (by simpa [or_comm] using ho)
  intro o ho
  simp only [jumpOps, List.mem_append, List.mem_cons] at ho
  rcases ho with (rfl | ho) | ho
  · exact fun u hu => by cases hu
  · exact hi.right _ o ho
  · exact ha.left _ o ho

/-- The operations of an instruction show only in its destinations. -/
theorem tailOps_show (i : Instr) (s : State) : OpsShow (tailOps i) (destinations i s) := by
  cases i
  case jumpAbs | jumpRel => exact jumpOps_show _
  case jumpInd | jumpRel6 => exact (jumpOps_show _).right _
  case callAbs | callRel => exact (OpsShow.single .pushPc).silent branch_show
  case callInd | callRel6 => exact ((OpsShow.single .pushPc).silent branch_show).right _
  case jumpIndElse | jumpRelElse | cjumpAbs | cjumpRel => exact branch_show.left _
  case rts => exact ((OpsShow.single .popPc).silent branch_show).right _
  case rti =>
    exact ((((OpsShow.single .popPc).right _).append (.single .popSts)).append
      (.single .endInterrupt)).silent branch_show
  case doCountImm | doCountReg =>
    exact ((OpsShow.single .setCount).append (.single .pushPc)).append (.single .pushLoop)
  case doUntil => exact (OpsShow.single .pushPc).append (.single .pushLoop)
  case pushPcstk fl => exact (OpsShow.single .pushPc).silent (flushOps_show fl)
  case pushLoop sts pcstk fl =>
    exact (((OpsShow.single .pushLoop).append (.ite sts .pushSts)).append (.ite pcstk .pushPc)).silent
      (flushOps_show fl)
  case pushSts pcstk fl =>
    exact ((OpsShow.single .pushSts).append (.ite pcstk .pushPc)).silent (flushOps_show fl)
  case popLoop sts pcstk fl =>
    exact (((OpsShow.single .popLoop).append (.ite sts .popSts)).append (.ite pcstk .popPc)).silent (flushOps_show fl)
  case popSts pcstk fl =>
    exact ((OpsShow.single .popSts).append (.ite pcstk .popPc)).silent (flushOps_show fl)
  case popPcstk fl => exact (OpsShow.single .popPc).silent (flushOps_show fl)
  case flushCache => exact (flushOps_show true).left _
  case idle => exact (OpsShow.single .idle).left _
  all_goals exact .nil _

/-- Settles O38: the writes of an instruction show in its destinations, and so does its chain of operations. -/
theorem registerFrame : Obligations.RegisterFrame := by
  intro i s t h
  obtain ⟨ws, hf, -, ht⟩ := exec_parts h
  have hc := tailOf_chain ht
  refine ⟨fun u hu => ?reads, fun bank e hb => ?mr, ?fields⟩
  case reads =>
    have hw : (ws.foldl Write.apply s).readUReg u = s.readUReg u :=
      readUReg_foldl (fun w hw hs => hu (hf.shows w hw u hs)) s
    refine hc.keeps (P := fun v => v.readUReg u = s.readUReg u) (fun o ho v w hd hv => ?_) hw
    rw [does_readUReg hd fun hs => hu (tailOps_show i s o ho u hs), hv]
  case mr =>
    have hw : ((ws.foldl Write.apply s).pe e).mr bank = (s.pe e).mr bank :=
      pe_mr_foldl (fun w hw hm => hb (by simpa using hf.banks w hw bank hm)) s e
    exact hc.keeps (P := fun v => (v.pe e).mr bank = (s.pe e).mr bank) (fun o _ v w hd hv => by rw [does_mr hd, hv]) hw
  case fields =>
    have hw : StepFields s (ws.foldl Write.apply s) := by
      obtain ⟨hp, hpc, -, hdbr, -, -, hm, hh, hs, hi, hk, -, -⟩ := foldl_sameCore s ws
      exact ⟨hpc, hp, hdbr, hk, hh, hs, hm, hi⟩
    exact hc.keeps (P := StepFields s) (fun o _ v w hd hv => hv.trans (does_stepFields hd)) hw

/-! ### Memory -/

theorem writeUReg_mem_stale (s : State) (u : UReg) (v : BusWord) :
    (s.writeUReg u v).mem = s.mem ∧ (s.writeUReg u v).stale = s.stale := by
  cases u with
  | sys q => cases q <;> exact ⟨rfl, rfl⟩
  | pcstk => cases h : s.pcStack <;> simp [State.writeUReg, h]
  | laddr | curlcntr => cases h : s.loops <;> simp [State.writeUReg, h]
  | _ => exact ⟨rfl, rfl⟩

theorem cellLanes_le (s : State) (a : Word) : cellLanes s a ≤ 8 := by
  unfold cellLanes
  cases s.region a <;> simp

/-- What a list of sane writes leaves of a byte that none of them reaches. -/
theorem read_foldl {s : State} {ws : List Write} (hs : ∀ w ∈ ws, w.Sane s) {a : Word} {lane : Nat} (hl : lane < 8)
    (ha : a ∉ ws.flatMap Write.addrs ∨ cellLanes s a ≤ lane) (t : State) (ht : t.mem.wf) :
    (ws.foldl Write.apply t).mem.wf ∧
      (ws.foldl Write.apply t).mem.read (cellKey a lane) = t.mem.read (cellKey a lane) := by
  induction ws generalizing t with
  | nil => exact ⟨ht, rfl⟩
  | cons w ws ih =>
    have hws := ih (fun v hv => hs v (List.mem_cons_of_mem _ hv))
      (ha.imp_left fun h hm => h (by rw [List.flatMap_cons]; exact List.mem_append_right _ hm))
    have hw : (w.apply t).mem.wf ∧ (w.apply t).mem.read (cellKey a lane) = t.mem.read (cellKey a lane) := by
      cases w with
      | reg u v =>
        rw [show (Write.reg u v).apply t = t.writeUReg u v from rfl, (writeUReg_mem_stale t u v).1]
        exact ⟨ht, rfl⟩
      | device c => exact ⟨ht, rfl⟩
      | overflow k => exact ⟨ht, rfl⟩
      | unit e r => cases e <;> exact ⟨ht, rfl⟩
      | cell c lanes v =>
        obtain ⟨rfl, -⟩ := hs _ List.mem_cons_self
        refine ⟨Memory.wf_writeCell _ _ _ _ ht, ?_⟩
        by_cases hc : a = c
        · subst hc
          have hlane : cellLanes s a ≤ lane := ha.resolve_left fun h => h (by simp [Write.addrs])
          exact Memory.read_writeCell_above _ _ _ _ _ ht hlane hl
        · exact Memory.read_writeCell_other _ _ _ _ _ _ ht hl (cellLanes_le s c) hc
    rw [List.foldl_cons]
    exact ⟨(hws _ hw.1).1, (hws _ hw.1).2.trans hw.2⟩

/-- Settles O36: only the writes of an instruction reach memory, and they store to its cells by their width. -/
theorem memoryFrame : Obligations.MemoryFrame := by
  intro i s t hm h a lane hl ha
  obtain ⟨ws, hf, -, ht⟩ := exec_parts h
  rw [← hf.addrs] at ha
  obtain ⟨-, hr⟩ := read_foldl hf.sane hl ha s hm
  exact (tailOf_chain ht).keeps (P := fun v => v.mem.read (cellKey a lane) = s.mem.read (cellKey a lane))
    (fun o _ v w hd hv => by rw [does_mem hd, hv]) hr

/-! ### Stale addresses -/

theorem mem_insertAddr (a c : Word) (l : List Word) : a ∈ insertAddr c l ↔ a = c ∨ a ∈ l := by
  induction l with
  | nil => simp [insertAddr]
  | cons d l ih =>
    unfold insertAddr
    split
    · simp
    · split
      · simp_all
      · rw [List.mem_cons, ih, List.mem_cons]
        tauto

/-- Exactly the stored cells that are no devices are added to the stale set. -/
theorem stale_foldl {s : State} {ws : List Write} (hs : ∀ w ∈ ws, w.Sane s) (a : Word) (t : State) :
    a ∈ (ws.foldl Write.apply t).stale ↔
      a ∈ t.stale ∨ (a ∈ ws.flatMap Write.addrs ∧ s.region a ≠ .device) := by
  induction ws generalizing t with
  | nil => simp
  | cons w ws ih =>
    rw [List.foldl_cons, ih (fun v hv => hs v (List.mem_cons_of_mem _ hv)), List.flatMap_cons, List.mem_append]
    have hw : a ∈ (w.apply t).stale ↔ a ∈ t.stale ∨ (a ∈ w.addrs ∧ s.region a ≠ .device) := by
      cases w with
      | reg u v =>
        simp [show (Write.reg u v).apply t = t.writeUReg u v from rfl, (writeUReg_mem_stale t u v).2, Write.addrs]
      | overflow k => simp [Write.apply, Write.addrs]
      | unit e r => cases e <;> simp [Write.apply, Write.addrs, State.withPe]
      | device c =>
        have hc : s.region c = .device := hs _ List.mem_cons_self
        simp only [Write.apply, Write.addrs, List.mem_singleton]
        exact ⟨.inl, fun h => h.elim id (fun ⟨he, hn⟩ => absurd (he ▸ hc) hn)⟩
      | cell c lanes v =>
        obtain ⟨-, hc⟩ := hs _ List.mem_cons_self
        simp only [Write.apply, Write.addrs, List.mem_singleton, mem_insertAddr]
        exact ⟨fun h => h.elim (fun he => .inr ⟨he, he ▸ hc⟩) .inl, fun h => h.elim .inr (fun he => .inl he.1)⟩
    rw [hw]
    tauto

/-- An instruction with the FLUSH CACHE action ends with it. -/
theorem tailOf_flushes {i : Instr} {s t u : State} (hf : flushes i = true) (h : tailOf i s t = .ok u) :
    u.stale = [] := by
  have last : ∀ {r : Run State} {fl : Bool}, fl = true → (r >>= fun v => pure (flushIf v fl)) = .ok u →
      u.stale = [] := by
    rintro r fl rfl hr
    obtain ⟨v, -, hv⟩ := (Run.bind_eq_ok _ _ _).mp hr
    cases hv
    rfl
  cases i
  case pushPcstk fl => exact last hf h
  case popPcstk fl => exact last hf h
  case pushLoop sts pcstk fl =>
    obtain ⟨v, -, h⟩ := (Run.bind_eq_ok _ _ _).mp h
    obtain ⟨w, -, h⟩ := (Run.bind_eq_ok _ _ _).mp h
    exact last hf h
  case popLoop sts pcstk fl =>
    obtain ⟨v, -, h⟩ := (Run.bind_eq_ok _ _ _).mp h
    obtain ⟨w, -, h⟩ := (Run.bind_eq_ok _ _ _).mp h
    exact last hf h
  case pushSts pcstk fl =>
    obtain ⟨v, -, h⟩ := (Run.bind_eq_ok _ _ _).mp h
    exact last hf h
  case popSts pcstk fl =>
    obtain ⟨v, -, h⟩ := (Run.bind_eq_ok _ _ _).mp h
    exact last hf h
  case flushCache =>
    cases h
    rfl
  all_goals cases hf

theorem tailOps_alone {i : Instr} (h : standsAlone i = true) : tailOps i = [] := by
  cases i <;> first | (cases h; done) | rfl

theorem flush_not_mem_append {a b : List TailOp} (ha : TailOp.flush ∉ a) (hb : TailOp.flush ∉ b) :
    TailOp.flush ∉ a ++ b := fun h => (List.mem_append.mp h).elim ha hb

theorem flush_not_mem_ite (go : Bool) {o : TailOp} (ho : TailOp.flush ∉ [o]) :
    TailOp.flush ∉ (if go then [o] else []) := by
  cases go
  · exact List.not_mem_nil
  · exact ho

theorem flush_not_mem_flushOps {fl : Bool} (h : fl = false) : TailOp.flush ∉ flushOps fl := by
  rw [h]
  exact List.not_mem_nil

theorem flush_not_mem_jumpOps (mods : JumpMods) : TailOp.flush ∉ jumpOps mods := by
  cases h1 : mods.clearInterrupt <;> cases h2 : mods.loopAbort <;> simp [jumpOps, h1, h2]

/-- Only a word with the FLUSH CACHE action flushes. -/
theorem flush_not_mem {i : Instr} (hf : flushes i = false) : TailOp.flush ∉ tailOps i := by
  by_cases ha : standsAlone i = true
  · rw [tailOps_alone ha]
    exact List.not_mem_nil
  cases i
  case pushPcstk | popPcstk => exact flush_not_mem_append (a := [_]) (by decide) (flush_not_mem_flushOps hf)
  case pushLoop | popLoop =>
    exact flush_not_mem_append (flush_not_mem_append (flush_not_mem_append (a := [_]) (by decide)
      (flush_not_mem_ite _ (by decide))) (flush_not_mem_ite _ (by decide))) (flush_not_mem_flushOps hf)
  case pushSts | popSts =>
    exact flush_not_mem_append (flush_not_mem_append (a := [_]) (by decide) (flush_not_mem_ite _ (by decide)))
      (flush_not_mem_flushOps hf)
  case jumpAbs | jumpRel | jumpInd | jumpRel6 => exact flush_not_mem_jumpOps _
  case callAbs | callRel | callInd | callRel6 => exact (by decide : TailOp.flush ∉ [TailOp.pushPc, .branch])
  case jumpIndElse | jumpRelElse | cjumpAbs | cjumpRel => exact (by decide : TailOp.flush ∉ [TailOp.branch])
  case rts => exact (by decide : TailOp.flush ∉ [TailOp.popPc, .branch])
  case rti => exact (by decide : TailOp.flush ∉ [TailOp.popPc, .popSts, .endInterrupt, .branch])
  case doCountImm | doCountReg => exact (by decide : TailOp.flush ∉ [TailOp.setCount, .pushPc, .pushLoop])
  case doUntil => exact (by decide : TailOp.flush ∉ [TailOp.pushPc, .pushLoop])
  case idle => exact (by decide : TailOp.flush ∉ [TailOp.idle])
  case flushCache => cases hf
  case dualMove | ifCompute | uregMove | dregMoveImm | uregToUreg | swap | shiftImmMove | shiftImm | modifyReg
    | storeDirect | loadDirect | storeIndexed | loadIndexed | storeImm | loadImm | bitSet | bitClr | bitTgl | bitTst
    | bitXor | modifyImm | bitrev | stackNone | nop | rframe => exact List.not_mem_nil
  all_goals exact absurd rfl ha

/-- Settles O37: the writes add exactly the stored cells, and of the operations only a flush touches the set. -/
theorem storesGoStale : Obligations.StoresGoStale := by
  intro i s t h
  obtain ⟨ws, hfit, -, ht⟩ := exec_parts h
  refine ⟨fun hf => tailOf_flushes hf ht, fun hf a => ?_⟩
  rw [← hfit.addrs, ← stale_foldl hfit.sane a s]
  exact (tailOf_chain ht).keeps (P := fun v => a ∈ v.stale ↔ a ∈ (ws.foldl Write.apply s).stale)
    (fun o ho v w hd hv => by rw [does_stale hd fun he => flush_not_mem hf (he ▸ ho), hv]) Iff.rfl

end Sys2Proof.Machine
end

section
/-! The invariant of the machine's states (41_program_flow.md R260 to R264, 10_state.md R46, R53, R55): the writes of
an
instruction keep it, the operations of the sequencer keep it but for a branch request, and the rest of the step takes
the request up. -/

-- One proof at a time: each thread that elaborates beside another reserves a gigabyte of the check's memory.
set_option Elab.async false

namespace Sys2Proof.Machine

/-- The invariant without the clause on branch requests: what holds within an instruction. -/
structure Sound (s : State) : Prop where
  mem : s.mem.wf
  stale : s.stale.Pairwise (fun a c => a < c)
  fit : stacksFit s
  modes : modesPlain s
  readOnly : readOnlyClear s
  slots : ∀ d ∈ s.dbr, 1 ≤ d.left ∧ d.left ≤ dbSlots

theorem good_iff (s : State) : Good s ↔ Sound s ∧ s.request = none :=
  ⟨fun ⟨hm, hs, hf, hp, hr, hq, hd⟩ => ⟨⟨hm, hs, hf, hp, hr, hd⟩, hq⟩,
    fun ⟨⟨hm, hs, hf, hp, hr, hd⟩, hq⟩ => ⟨hm, hs, hf, hp, hr, hq, hd⟩⟩

/-! ### Writes -/

theorem insertAddr_sorted (a : Word) {l : List Word} (h : l.Pairwise (fun a c => a < c)) :
    (insertAddr a l).Pairwise (fun a c => a < c) := by
  induction l with
  | nil => exact List.pairwise_singleton _ _
  | cons c l ih =>
    obtain ⟨hc, hl⟩ := List.pairwise_cons.mp h
    unfold insertAddr
    split
    · rename_i hac
      refine List.pairwise_cons.mpr ⟨fun d hd => ?_, h⟩
      rcases List.mem_cons.mp hd with rfl | hd
      · exact hac
      · exact BitVec.lt_trans hac (hc d hd)
    · split
      · exact h
      · rename_i hac hne
        refine List.pairwise_cons.mpr ⟨fun d hd => ?_, ih hl⟩
        rcases (mem_insertAddr d a l).mp hd with rfl | hd
        · bv_omega
        · exact hc d hd

theorem or_within {a b m : Word} (ha : a &&& ~~~m = 0#32) (hb : b &&& ~~~m = 0#32) : (a ||| b) &&& ~~~m = 0#32 := by
  rw [BitVec.and_or_distrib_right, ha, hb, BitVec.or_zero]

theorem and_not_within (a m : Word) : a &&& m &&& ~~~m = 0#32 := by
  rw [BitVec.and_assoc, BitVec.and_not_self]
  exact BitVec.and_zero

theorem AluFlags.sticky_stored (f : AluFlags) : f.sticky &&& ~~~storedSticky = 0#32 := by
  unfold AluFlags.sticky
  cases f.au <;> cases f.av <;> cases f.ai <;> cases f.floating <;> rfl

theorem MulFlags.sticky_stored (f : MulFlags) : f.sticky &&& ~~~storedSticky = 0#32 := by
  unfold MulFlags.sticky
  cases f.mu <;> cases f.mv <;> cases f.mi <;> cases f.floating <;> rfl

theorem PeResult.sticky_stored (r : PeResult) : r.sticky &&& ~~~storedSticky = 0#32 := by
  unfold PeResult.sticky
  refine or_within ?_ ?_
  · cases r.alu with
    | none => rfl
    | some f => exact f.sticky_stored
  · cases r.mul with
    | none => rfl
    | some f => exact f.sticky_stored

theorem overflowBit_stored (k : RegNum) : overflowBit k &&& ~~~storedSticky = 0#32 := by
  unfold overflowBit
  cases decide (k = 7) <;> cases decide (k = 15) <;> rfl

/-- What a register write does to the modes and the read-only bits. -/
theorem writeUReg_modes {s t : State} {u : UReg} {v : BusWord} (hs : s.writeRefusal u v = none) (hm : modesPlain t)
    (hr : readOnlyClear t) : modesPlain (t.writeUReg u v) ∧ readOnlyClear (t.writeUReg u v) := by
  cases u with
  | sys q =>
    cases q with
    | mode1 =>
      have hv : to32 v &&& alternateBits = 0#32 := by
        by_contra hv
        simp [State.writeRefusal, hv] at hs
      exact ⟨⟨hv, hm.2⟩, hr⟩
    | mode2 =>
      obtain ⟨h2, hx⟩ := hr
      refine ⟨hm, ?_, hx⟩
      show (to32 v &&& mode2Writable ||| t.mode2 &&& ~~~mode2Writable) &&& ~~~mode2Writable = 0#32
      rw [h2, BitVec.or_zero]
      exact and_not_within _ _
    | stkyx =>
      refine ⟨hm, hr.1, ?_⟩
      show to32 v &&& storedSticky &&& ~~~storedSticky = 0#32
      exact and_not_within _ _
    | _ => exact ⟨hm, hr⟩
  | pcstk => cases h : t.pcStack <;> simpa [State.writeUReg, h] using ⟨hm, hr⟩
  | laddr | curlcntr => cases h : t.loops <;> simpa [State.writeUReg, h] using ⟨hm, hr⟩
  | _ => exact ⟨hm, hr⟩

/-- A write that the machine makes keeps the invariant. -/
theorem apply_sound {s t : State} {w : Write} (hs : w.Sane s) (h : Sound t) : Sound (w.apply t) := by
  obtain ⟨hpar, -, hsts, hdbr, -, -, -, -, -, -, -, hpc, hloops⟩ := apply_sameCore t w
  have hfit : stacksFit (w.apply t) := by
    have hlen := congrArg List.length hpc
    simp only [List.length_map] at hlen
    simpa only [stacksFit, hpar, hsts, hloops, hlen] using h.fit
  have hslots : ∀ d ∈ (w.apply t).dbr, 1 ≤ d.left ∧ d.left ≤ dbSlots := by
    rw [hdbr]
    exact h.slots
  cases w with
  | reg u v =>
    obtain ⟨hmem, hstale⟩ := writeUReg_mem_stale t u v
    obtain ⟨hm, hr⟩ := writeUReg_modes (t := t) hs h.modes h.readOnly
    exact ⟨hmem.symm ▸ h.mem, hstale.symm ▸ h.stale, hfit, hm, hr, hslots⟩
  | device a => exact h
  | cell a lanes v =>
    exact ⟨Memory.wf_writeCell _ _ _ _ h.mem, insertAddr_sorted a h.stale, hfit, h.modes, h.readOnly, hslots⟩
  | overflow k =>
    exact ⟨h.mem, h.stale, hfit, h.modes, ⟨h.readOnly.1, or_within h.readOnly.2 (overflowBit_stored k)⟩, hslots⟩
  | unit e r =>
    cases e with
    | y => exact ⟨h.mem, h.stale, hfit, h.modes, h.readOnly, hslots⟩
    | x =>
      refine ⟨h.mem, h.stale, hfit, h.modes, ⟨h.readOnly.1, ?_⟩, hslots⟩
      show (t.x.apply r).stky &&& _ = _
      rw [apply_stky]
      exact or_within h.readOnly.2 r.sticky_stored

theorem foldl_sound {s : State} {ws : List Write} (hs : ∀ w ∈ ws, w.Sane s) {t : State} (h : Sound t) :
    Sound (ws.foldl Write.apply t) := by
  induction ws generalizing t with
  | nil => exact h
  | cons w ws ih =>
    exact ih (fun v hv => hs v (List.mem_cons_of_mem _ hv)) (apply_sound (hs w List.mem_cons_self) h)

/-! ### The operations of the sequencer -/

theorem maskedMode1_plain {s : State} (h : modesPlain s) : maskedMode1 s &&& alternateBits = 0#32 := by
  unfold maskedMode1
  split
  · rw [BitVec.and_assoc, BitVec.and_comm (~~~s.mmask), ← BitVec.and_assoc, h.1, BitVec.zero_and]
  · exact h.1

/-- An operation of the sequencer keeps the invariant. -/
theorem does_sound {o : TailOp} {s t : State} (hd : o.Does s t) (h : Sound s) : Sound t := by
  obtain ⟨hmem, hstale, ⟨hp, hl, hst⟩, hm, hr, hs⟩ := h
  cases o
  case branch => obtain ⟨a, d, la, rfl⟩ := hd; exact ⟨hmem, hstale, ⟨hp, hl, hst⟩, hm, hr, hs⟩
  case pushPc => obtain ⟨p, hlt, rfl⟩ := hd; exact ⟨hmem, hstale, ⟨hlt, hl, hst⟩, hm, hr, hs⟩
  case popPc =>
    obtain ⟨p, rest, he, rfl⟩ := hd
    rw [he, List.length_cons] at hp
    exact ⟨hmem, hstale, ⟨Nat.le_of_succ_le hp, hl, hst⟩, hm, hr, hs⟩
  case pushLoop => obtain ⟨e, hlt, rfl⟩ := hd; exact ⟨hmem, hstale, ⟨hp, hlt, hst⟩, hm, hr, hs⟩
  case popLoop =>
    obtain ⟨e, rest, he, rfl⟩ := hd
    rw [he, List.length_cons] at hl
    exact ⟨hmem, hstale, ⟨hp, Nat.le_of_succ_le hl, hst⟩, hm, hr, hs⟩
  case pushSts =>
    obtain ⟨hlt, rfl⟩ := hd
    exact ⟨hmem, hstale, ⟨hp, hl, hlt⟩, ⟨maskedMode1_plain hm, List.forall_mem_cons.mpr hm⟩, hr, hs⟩
  case popSts =>
    obtain ⟨e, rest, he, rfl⟩ := hd
    obtain ⟨-, hm⟩ := hm
    rw [he] at hm hst
    exact ⟨hmem, hstale, ⟨hp, hl, Nat.le_of_succ_le hst⟩, List.forall_mem_cons.mp hm, hr, hs⟩
  case endInterrupt =>
    obtain rfl := hd
    rcases clearInterrupt_eq s with h | ⟨k, -, h⟩ <;> rw [h] <;> exact ⟨hmem, hstale, ⟨hp, hl, hst⟩, hm, hr, hs⟩
  case setCount => obtain ⟨v, rfl⟩ := hd; exact ⟨hmem, hstale, ⟨hp, hl, hst⟩, hm, hr, hs⟩
  case flush => obtain rfl := hd; exact ⟨hmem, .nil, ⟨hp, hl, hst⟩, hm, hr, hs⟩
  case idle => obtain rfl := hd; exact ⟨hmem, hstale, ⟨hp, hl, hst⟩, hm, hr, hs⟩

/-- An instruction keeps the invariant, but for the branch it may ask for. -/
theorem exec_sound {i : Instr} {s t : State} (he : exec i s = .next t) (h : Sound s) : Sound t := by
  obtain ⟨ws, hf, -, ht⟩ := exec_parts he
  exact (tailOf_chain ht).keeps (P := Sound) (fun o _ v w hd hv => does_sound hd hv) (foldl_sound hf.sane h)

/-! ### The next PC -/

theorem advance_good {s : State} (h : Good s) : Good (advance s) := h

theorem goTo_good {s : State} (h : Good s) (a : ProgAddr) : Good (goTo s a) := h

theorem abortLoop_good {s t : State} (ha : abortLoop s = .ok t) (h : Good s) : Good t := by
  obtain ⟨hm, hst, ⟨hp, hl, hss⟩, rest⟩ := h
  obtain ⟨e, ls, p, ps, hls, hps, rfl⟩ := (abortLoop_eq_ok s t).mp ha
  rw [hps, List.length_cons] at hp
  rw [hls, List.length_cons] at hl
  exact ⟨hm, hst, ⟨Nat.le_of_succ_le hp, Nat.le_of_succ_le hl, hss⟩, rest⟩

theorem leaveLoop_good {s t : State} (hl : leaveLoop s = .ok t) (h : Good s) : Good t := by
  obtain ⟨u, hu, hl⟩ := (Run.bind_eq_ok _ _ _).mp hl
  cases hl
  exact advance_good (abortLoop_good hu h)

theorem repeatLoop_good {s t : State} (hr : repeatLoop s = .ok t) (h : Good s) : Good t := by
  obtain ⟨p, more, -, rfl⟩ := (repeatLoop_eq_ok s t).mp hr
  exact goTo_good h _

theorem loopEnd_good {s t : State} {e : LoopEntry} {rest : List LoopEntry} (hs : s.loops = e :: rest)
    (hl : loopEnd s e rest = .ok t) (h : Good s) : Good t := by
  rcases loopEnd_eq_ok hl with hl | hl | hl
  · exact leaveLoop_good hl h
  · exact repeatLoop_good hl h
  · refine repeatLoop_good hl ?_
    obtain ⟨hm, hst, ⟨hp, hll, hss⟩, rest⟩ := h
    rw [hs] at hll
    exact ⟨hm, hst, ⟨hp, hll, hss⟩, rest⟩

theorem fallThrough_good {s t : State} (hf : fallThrough s = .ok t) (h : Good s) : Good t := by
  rcases fallThrough_eq_ok hf with rfl | ⟨e, rest, hs, -, -, hl⟩
  · exact advance_good h
  · exact loopEnd_good hs hl h

theorem transfer_good {s t : State} {d : DelayedBranch} (ht : transfer s d = .ok t) (h : Good s) : Good t := by
  obtain ⟨u, hu, rfl⟩ := (transfer_eq_ok s t d).mp ht
  have hg : Good u := by
    cases hd : d.loopAbort <;> rw [hd] at hu
    · cases hu
      exact h
    · exact abortLoop_good hu h
  obtain ⟨hm, hst, hf, hp, hr, hq, -⟩ := hg
  exact ⟨hm, hst, hf, hp, hr, hq, fun _ hd => by cases hd⟩

/-- The choice of the next PC takes up the branch request and gives back the whole invariant. -/
theorem sequence_good {s t : State} (hq : Machine.sequence s = .ok t) (h : Sound s) : Good t := by
  rcases sequence_eq_ok hq with ⟨r, -, -, rfl⟩ | ⟨r, -, -, rfl⟩ | ⟨d, hr, -, -, ht⟩ | ⟨d, hr, hd, hl, rfl⟩ |
    ⟨hr, -, hf⟩
  · refine ⟨h.mem, h.stale, h.fit, h.modes, h.readOnly, rfl, fun d hd => ?_⟩
    cases hd
    exact ⟨Nat.succ_pos 1, le_rfl⟩
  · exact ⟨h.mem, h.stale, h.fit, h.modes, h.readOnly, rfl, h.slots⟩
  · exact transfer_good ht ((good_iff s).mpr ⟨h, hr⟩)
  · have hb := h.slots d hd
    refine advance_good ((good_iff _).mpr ⟨⟨h.mem, h.stale, h.fit, h.modes, h.readOnly, fun c hc => ?_⟩, hr⟩)
    cases hc
    exact ⟨by show 1 ≤ d.left - 1; omega, by show d.left - 1 ≤ dbSlots; omega⟩
  · exact fallThrough_good hf ((good_iff s).mpr ⟨h, hr⟩)

/-! ### Between instructions -/

theorem takeInterrupt_good {s t : State} {k : Nat} {n : ProgAddr} (ht : takeInterrupt s k n = .ok t) (h : Good s) :
    Good t := by
  obtain ⟨hm, hst, ⟨hp, hl, hss⟩, hmp, hr, hq, hd⟩ := h
  obtain ⟨hlt, hlts, rfl⟩ := (takeInterrupt_eq_ok s t k n).mp ht
  cases hps : pushesStatus s k
  · exact ⟨hm, hst, ⟨hlt, hl, hss⟩, hmp, hr, hq, hd⟩
  · exact ⟨hm, hst, ⟨hlt, hl, hlts hps⟩, ⟨maskedMode1_plain hmp, List.forall_mem_cons.mpr hmp⟩, hr, hq, hd⟩

theorem sampleInterrupts_good {s t : State} (hs : sampleInterrupts s = .ok t) (h : Good s) : Good t := by
  rcases sampleInterrupts_eq_ok hs with ⟨n, rfl⟩ | ⟨k, -, -, ht⟩
  · exact h
  · exact takeInterrupt_good (s := { s with irqWait := 0 }) ht h

theorem latchRequests_good {s : State} (h : Good s) : Good (latchRequests s) := by
  obtain ⟨v, w, he⟩ := latchRequests_eq s
  rw [he]
  exact h

theorem tickTimer_good {s : State} (h : Good s) : Good (tickTimer s) := by
  obtain ⟨c, w, he⟩ := tickTimer_eq s
  rw [he]
  exact h

theorem betweenInstructions_good {s t : State} (hb : betweenInstructions s = .ok t) (h : Good s) : Good t :=
  sampleInterrupts_good hb (latchRequests_good (tickTimer_good h))

/-- Settles O35: an instruction keeps the invariant but for its branch request, which the choice of the next PC takes
up. -/
theorem stepKeepsGood : Obligations.StepKeepsGood := by
  intro s t h hs
  rcases (step_eq_next s t).mp hs with ⟨-, hi⟩ | ⟨-, i, u, -, he, hf⟩
  · obtain ⟨u, hu, hi⟩ := (Run.bind_eq_ok _ _ _).mp hi
    cases hi
    exact (betweenInstructions_good (s := tick s) hu h : Good u)
  · obtain ⟨-, v, w, hv, hw, rfl⟩ := (finish_eq_ok s u t).mp hf
    have hg : Good v := sequence_good hv (exec_sound he ((good_iff s).mp h).1)
    exact (betweenInstructions_good (s := tick v) hw hg : Good w)

/-- Settles O33: at reset every stack is empty and every register the invariant speaks of is 0. -/
theorem resetIsGood : Obligations.ResetIsGood :=
  ⟨⟨.nil, fun _ h => absurd h List.not_mem_nil⟩, .nil, ⟨Nat.zero_le _, Nat.zero_le _, Nat.zero_le _⟩,
    ⟨rfl, fun _ h => absurd h List.not_mem_nil⟩, ⟨rfl, rfl⟩, ⟨rfl, fun _ h => by cases h⟩⟩

theorem get_replicate {w : Nat} (v : BitVec w) (n : RegNum) : (Vector.replicate 16 v)[n] = v :=
  Vector.getElem_replicate _

/-- Settles O34: every register of the reset state is written out in its definition. -/
theorem resetRegisters : Obligations.ResetRegisters := by
  refine ⟨fun n => ?_, fun p hp => ?_, fun r hr => ?_, rfl, rfl, rfl, rfl, rfl, rfl, rfl, rfl, rfl, fun _ => rfl⟩
  · exact ⟨get_replicate 0#40 n, get_replicate 0#40 n, get_replicate 0#32 n, get_replicate 0#32 n,
      get_replicate 0#32 n, get_replicate 0#32 n⟩
  · have hp : p = Pe.reset := by simpa [State.reset] using hp
    subst hp
    exact ⟨rfl, rfl, rfl, rfl, rfl⟩
  · simpa [State.reset] using hr

end Sys2Proof.Machine
end

section
/-! The step around its instruction (41_program_flow.md R260), and the instructions of Types 14 to 22 that need no
more than
their own definition (43_misc.md, 60_exceptions.md R575). -/

-- One proof at a time: each thread that elaborates beside another reserves a gigabyte of the check's memory.
set_option Elab.async false

namespace Sys2Proof.Machine

/-! ### The step runs the instruction fetched -/

theorem fetch_of_decode {s : State} {i : Instr} (hf : fetchAddr s ∉ s.stale) (hr : s.region (fetchAddr s) = .word48)
    (hd : decode (to48 (s.mem.readCell (fetchAddr s) 6)) = .ok i) : fetch s = .ok i := by
  have hw : fetchWord s = .ok (to48 (s.mem.readCell (fetchAddr s) 6)) := by
    unfold fetchWord
    dsimp only
    rw [if_neg hf, hr]
  unfold fetch
  rw [hw, Run.ok_bind, hd]
  rfl

theorem fetchAllowed_of_none {s : State} {i : Instr} (hf : fetch s = .ok i) (hg : guard s i = none) :
    fetchAllowed s = .ok i := by
  unfold fetchAllowed
  simp only [hf, Run.ok_bind, hg]
  exact Run.pure_eq_ok i

theorem fetchAllowed_of_some {s : State} {i : Instr} {why : Refusal} (hf : fetch s = .ok i)
    (hg : guard s i = some why) : fetchAllowed s = refuse why := by
  unfold fetchAllowed
  simp only [hf, Run.ok_bind, hg]

theorem step_of_fetch {s : State} {i : Instr} (hi : s.idle = false) (hf : fetchAllowed s = .ok i) :
    step s = afterExec s (exec i s) := by
  unfold step
  rw [hi, hf]
  rfl

/-- Settles O24: the instruction fetched runs when the guard is silent, and the guard's refusal is the step's. -/
theorem stepRunsDecoded : Obligations.StepRunsDecoded := by
  intro s i hi hs hr hd
  have hf := fetch_of_decode hs hr hd
  refine ⟨fun why hg => ?_, fun hg => ?_⟩
  · unfold step
    rw [hi, fetchAllowed_of_some hf hg]
    rfl
  · have hstep := step_of_fetch hi (fetchAllowed_of_none hf hg)
    refine ⟨fun t he => ?_, fun f he => ?_, fun why he => ?_⟩
    all_goals
      rw [hstep, he]
      rfl

/-! ### Moves of a register of the same DAG (20_memory.md R130) -/

/-- An operation is not refused for the reason. -/
def Run.Spares {α : Type} (why : Refusal) (r : Run α) : Prop := r ≠ refuse why

theorem Run.Spares.bind {α β : Type} {why : Refusal} {r : Run α} {f : α → Run β} (hr : r.Spares why)
    (hf : ∀ a, (f a).Spares why) : (r >>= f).Spares why := by
  cases r with
  | error e => exact fun h => hr (congrArg Except.error (Except.error.inj h))
  | ok a => exact hf a

theorem Run.Spares.outcome {why : Refusal} {r : Run State} (h : r.Spares why) : r.outcome ≠ .refused why := by
  intro ho
  unfold Run.outcome at ho
  split at ho
  · cases ho
  · cases ho
  · cases ho
    exact h rfl

theorem commit_spares (s : State) (ws : List Write) : (commit s ws).Spares .sameDag := by
  unfold commit
  split
  · exact fun h => by cases h
  · exact fun h => by cases h

theorem storeLong_spares (s : State) (a : Word) (v : BusWord) : (storeLong s a v).Spares .sameDag := by
  unfold storeLong
  cases s.region a <;> dsimp only
  case word32 => split <;> exact fun h => by cases h
  all_goals exact fun h => by cases h

theorem loadLong_spares (s : State) (a : Word) : (loadLong s a).Spares .sameDag := by
  unfold loadLong
  cases s.region a <;> dsimp only
  case word32 => split <;> exact fun h => by cases h
  all_goals exact fun h => by cases h

theorem storeCell_spares (s : State) (a : Word) (px : Bool) (v : BusWord) : (storeCell s a px v).Spares .sameDag := by
  unfold storeCell
  cases s.region a <;> dsimp only
  case word48 => split <;> exact fun h => by cases h
  all_goals exact fun h => by cases h

theorem loadCell_spares (s : State) (a : Word) (px : Bool) : (loadCell s a px).Spares .sameDag := by
  unfold loadCell
  cases s.region a <;> dsimp only
  case word48 => split <;> exact fun h => by cases h
  all_goals exact fun h => by cases h

theorem readUReg_spares (s : State) (u : UReg) : (s.readUReg u).Spares .sameDag := by
  cases u <;> simp only [State.readUReg]
  case pcstk => split <;> exact fun h => by cases h
  case laddr | curlcntr => split <;> exact fun h => by cases h
  all_goals exact fun h => by cases h

theorem writeRefusal_ne_sameDag (s : State) (u : UReg) (v : BusWord) : s.writeRefusal u v ≠ some .sameDag := by
  unfold State.writeRefusal
  split <;> first | exact fun h => by cases h | (split <;> exact fun h => by cases h)

theorem regWrite_spares (s : State) (u : UReg) (v : BusWord) : (regWrite s u v).Spares .sameDag := by
  intro h
  unfold regWrite at h
  split at h
  · rename_i why hw
    cases h
    exact writeRefusal_ne_sameDag s u v hw
  · cases h

theorem storePair_spares (s : State) (a : Word) (u : UReg) : (storePair s a u).Spares .sameDag := by
  unfold storePair
  split
  · exact (readUReg_spares s _).bind fun _ => (readUReg_spares s _).bind fun _ => storeLong_spares s a _
  · exact fun h => by cases h
  · exact fun h => by cases h

theorem loadPair_spares (s : State) (a : Word) (u : UReg) : (loadPair s a u).Spares .sameDag := by
  unfold loadPair
  split
  · exact (loadLong_spares s a).bind fun _ => (regWrite_spares s _ _).bind fun _ => (regWrite_spares s _ _).bind
      fun _ h => by cases h
  · exact fun h => by cases h
  · exact fun h => by cases h

theorem storeReg_spares (s : State) (lw : Bool) (a : Word) (u : UReg) : (storeReg s lw a u).Spares .sameDag := by
  unfold storeReg
  split
  · exact fun h => by cases h
  · split
    · exact storePair_spares s a u
    · exact (readUReg_spares s u).bind fun _ => storeCell_spares s a _ _

theorem loadReg_spares (s : State) (lw : Bool) (a : Word) (u : UReg) : (loadReg s lw a u).Spares .sameDag := by
  unfold loadReg
  split
  · exact fun h => by cases h
  · split
    · exact loadPair_spares s a u
    · exact (loadCell_spares s a _).bind fun _ => regWrite_spares s u _

theorem onlyIf_spares {why : Refusal} {r : Run (List Write)} (go : Bool) (h : r.Spares why) :
    (onlyIf go r).Spares why := by
  cases go
  · exact fun h => by cases h
  · exact h

/-- No move is refused for the DAG of its register; that is for the instruction to refuse. -/
theorem xfer_spares (s : State) (lw : Bool) (ax : Word) (u : UReg) (store ex ey : Bool) (k : Option RegNum) :
    (xfer s lw ax u store ex ey k).Spares .sameDag := by
  unfold xfer
  split
  · split
    · exact fun h => by cases h
    · cases store
      · exact onlyIf_spares _ (loadReg_spares s lw _ _)
      · exact onlyIf_spares _ (storeReg_spares s lw _ _)
  · split
    · exact (onlyIf_spares _ (storeReg_spares s lw _ _)).bind fun _ => (onlyIf_spares _ (storeReg_spares s lw _
      _)).bind
        fun _ h => by cases h
    · exact (onlyIf_spares _ (loadReg_spares s lw _ _)).bind fun _ => (onlyIf_spares _ (loadReg_spares s lw _ _)).bind
        fun _ h => by cases h

theorem directMove_spares (s : State) (long store : Bool) (u : UReg) (a : Word) :
    (directMove s long store u a).Spares .sameDag :=
  (xfer_spares s long a u store true s.simd none).bind fun _ => commit_spares s _

/-- Settles O45: the test of the DAG comes first in Types 3 and 15, and Type 14 has none. -/
theorem sameDagRefused : Obligations.SameDagRefused := by
  intro s g n u hu
  refine ⟨fun hg => ?_, fun g' long a => (directMove_spares s long true u a).outcome,
    fun g' long a => (directMove_spares s long false u a).outcome⟩
  have hd : sameDag g u = true := by
    simp only [List.mem_cons, List.not_mem_nil, or_false] at hu
    have hn : (decide (n.val < 8) == decide (g = .dm)) = true := by
      rw [beq_iff_eq, decide_eq_decide]
      exact hg
    rcases hu with rfl | rfl | rfl | rfl <;> exact hn
  refine ⟨fun cond c post i m store long => ?_, fun i long data => ?_, fun i long data => ?_⟩
  · show execUregMove cond c g post i m store long u s = _
    unfold execUregMove
    rw [if_pos hd]
    rfl
  · show Run.outcome (indexedMove s g i long true u data) = _
    unfold indexedMove
    rw [if_pos hd]
    rfl
  · show Run.outcome (indexedMove s g i long false u data) = _
    unfold indexedMove
    rw [if_pos hd]
    rfl

/-! ### Type 18 (43_misc.md R331 to R335) -/

theorem writeUReg_sys (s : State) (reg : SReg) (v : Word) : s.writeUReg (.sys reg) (bus32 v) = s.writeSReg reg v := by
  rw [State.writeUReg, to32_bus32]

/-- A complement among the system registers takes every value. -/
theorem writeRefusal_complement {reg : SReg} (h : hasComplement (.sys reg) = true) (s : State) (v : BusWord) :
    s.writeRefusal (.sys (complementSReg reg)) v = none := by
  cases reg <;> first | rfl | exact absurd h Bool.false_ne_true

theorem onlyIf_true (r : Run (List Write)) : onlyIf true r = r := rfl

theorem onlyIf_false (r : Run (List Write)) : onlyIf false r = .ok [] := rfl

theorem commit_reg (s : State) (u : UReg) (v : BusWord) : commit s [.reg u v] = .ok (s.writeUReg u v) := by
  rw [commit_of_nodup]
  · rfl
  · rw [List.flatMap_singleton]
    exact regPlaces_nodup u

theorem commit_complement {u : UReg} (h : hasComplement u = true) (s : State) (v w : BusWord) :
    commit s [.reg u v, .reg (complement u) w] = .ok ((s.writeUReg u v).writeUReg (complement u) w) := by
  rw [commit_of_nodup]
  · rfl
  · rw [List.flatMap_cons, List.flatMap_singleton]
    exact regPlaces_complement h

theorem bitChange_of_none {s : State} {reg : SReg} {f : Word → Word}
    (h : s.writeRefusal (.sys reg) (bus32 (f (s.readSReg reg))) = none) :
    bitChange s reg f = .ok (if s.simd && hasComplement (.sys reg) then
      (s.writeSReg reg (f (s.readSReg reg))).writeSReg (complementSReg reg) (f (s.readSReg (complementSReg reg)))
      else s.writeSReg reg (f (s.readSReg reg))) := by
  unfold bitChange
  rw [regWrite_ok h, Run.ok_bind]
  cases hc : s.simd && hasComplement (.sys reg)
  · rw [onlyIf_false, Run.ok_bind, List.append_nil, commit_reg, writeUReg_sys]
    rfl
  · have hcomp : hasComplement (.sys reg) = true := by
      rw [Bool.and_eq_true] at hc
      exact hc.2
    rw [onlyIf_true, regWrite_ok (writeRefusal_complement hcomp s _), Run.ok_bind]
    refine (commit_complement hcomp s _ _).trans ?_
    rw [complement, writeUReg_sys, writeUReg_sys, if_pos rfl]

theorem bitChange_of_some {s : State} {reg : SReg} {f : Word → Word} {why : Refusal}
    (h : s.writeRefusal (.sys reg) (bus32 (f (s.readSReg reg))) = some why) :
    bitChange s reg f = refuse why := by
  unfold bitChange regWrite
  rw [h]
  rfl

theorem bitTest_eq (s : State) (reg : SReg) (test : Word → Bool) :
    bitTest s reg test = .ok { s with
      x := { s.x with astat := setBit s.x.astat 18 (test (s.readSReg reg)) }
      y := if s.simd then { s.y with astat := setBit s.y.astat 18 (test (s.readSReg (complementSReg reg))) } else s.y
        } := by
  unfold bitTest
  cases s.simd <;> rw [commit_of_nodup _ _ (by simp [Write.places, regPlaces])] <;> refine congrArg Except.ok ?_
  · exact writeUReg_sys s .astatx _
  · rw [if_pos rfl]
    show (s.writeUReg (.sys .astatx) _).writeUReg (.sys .astaty) _ = _
    rw [writeUReg_sys, writeUReg_sys]
    rfl

theorem exec_bitSet (s : State) (reg : SReg) (data : Word) :
    exec (.bitSet reg data) s = Run.outcome (bitChange s reg fun v => v ||| data) := rfl

theorem exec_bitClr (s : State) (reg : SReg) (data : Word) :
    exec (.bitClr reg data) s = Run.outcome (bitChange s reg fun v => v &&& ~~~data) := rfl

theorem exec_bitTgl (s : State) (reg : SReg) (data : Word) :
    exec (.bitTgl reg data) s = Run.outcome (bitChange s reg fun v => v ^^^ data) := rfl

theorem exec_bitTst (s : State) (reg : SReg) (data : Word) :
    exec (.bitTst reg data) s = Run.outcome (bitTest s reg fun v => decide (v &&& data = data)) := rfl

theorem exec_bitXor (s : State) (reg : SReg) (data : Word) :
    exec (.bitXor reg data) s = Run.outcome (bitTest s reg fun v => decide (v = data)) := rfl

/-- Settles O56: SET, CLR and TGL are one change with three masks, TST and XOR one test of two relations. -/
theorem bitInstructions : Obligations.BitInstructions := by
  intro s reg data
  have changed : ∀ (i : Instr) (f : Word → Word), exec i s = Run.outcome (bitChange s reg f) →
      (s.writeRefusal (.sys reg) (bus32 (f (s.readSReg reg))) = none →
        exec i s = .next
          (if s.simd && hasComplement (.sys reg) then
            (s.writeSReg reg (f (s.readSReg reg))).writeSReg (complementSReg reg)
              (f (s.readSReg (complementSReg reg)))
          else s.writeSReg reg (f (s.readSReg reg)))) ∧
      ∀ why, s.writeRefusal (.sys reg) (bus32 (f (s.readSReg reg))) = some why → exec i s = .refused why := by
    intro i f he
    rw [he]
    exact ⟨fun h => congrArg Run.outcome (bitChange_of_none h), fun why h => congrArg Run.outcome (bitChange_of_some h)⟩
  refine ⟨changed (.bitSet reg data) (fun v => v ||| data) (exec_bitSet s reg data),
    changed (.bitClr reg data) (fun v => v &&& ~~~data) (exec_bitClr s reg data),
    changed (.bitTgl reg data) (fun v => v ^^^ data) (exec_bitTgl s reg data), ?_, ?_⟩
  · rw [exec_bitTst, bitTest_eq, Run.outcome_ok]
  · rw [exec_bitXor, bitTest_eq, Run.outcome_ok]

/-! ### NOP, IDLE and RFRAME -/

theorem loadCell_plain {s : State} {a : Word} (h : plainCell s a) : loadCell s a false = .ok (cellValue s a) :=
  (loadCell_eq_ok s a false _).mpr (.inr ⟨.inl h, rfl⟩)

/-- The state with I6 in I7 and a value in I6. -/
def unframed (s : State) (v : Word) : State := { s with i := (s.i.set 7 s.i[6]).set 6 v }

theorem commit_unframed (s : State) (v : Word) :
    commit s [indexWrite 7 s.i[6], indexWrite 6 v] = .ok (unframed s v) := by
  rw [commit_of_nodup _ _ (by simp [Write.places, regPlaces, indexWrite])]
  simp [Write.apply, indexWrite, State.writeUReg, unframed]

theorem exec_nop (s : State) : exec .nop s = .next s := rfl

theorem exec_noCompute (s : State) : exec .noCompute s = .next s := rfl

theorem exec_stackNone (s : State) : exec .stackNone s = .next s := rfl

theorem exec_flushCache (s : State) : exec .flushCache s = .next { s with stale := [] } := rfl

theorem exec_idle (s : State) : exec .idle s = .next { s with idle := true } := rfl

theorem exec_rframe_of_frameValue {s : State} {v : Word} (h : frameValue s = .ok v) :
    exec .rframe s = .next (unframed s v) := by
  show Run.outcome (frameValue s >>= _) = _
  rw [h, Run.ok_bind, commit_unframed, Run.outcome_ok]

theorem frameValue_sisd {s : State} (h : plainCell s s.i[6]) (hs : s.simd = false) :
    frameValue s = .ok (to32 (cellValue s s.i[6])) := by
  unfold frameValue
  rw [loadCell_plain h, Run.ok_bind, hs]
  rfl

/-- In SIMD mode a free bit chooses the cell (U24). -/
theorem frameValue_simd {s : State} (h : plainCell s s.i[6]) (h' : plainCell s (s.i[6] + 1#32)) (hs : s.simd = true) :
    frameValue s = .ok (to32 (cellValue s s.i[6])) ∨ frameValue s = .ok (to32 (cellValue s (s.i[6] + 1#32))) := by
  unfold frameValue
  rw [loadCell_plain h, Run.ok_bind, hs, loadCell_plain h']
  cases Config.freeBit .rframe s.clock
  · exact .inl rfl
  · exact .inr rfl

/-- Settles O59: RFRAME loads the one cell, or in SIMD mode the cell its free bit chooses. -/
theorem plainInstructions : Obligations.PlainInstructions := fun s =>
  ⟨exec_nop s, exec_noCompute s, exec_stackNone s, exec_flushCache s, exec_idle s,
    fun h hs => exec_rframe_of_frameValue (frameValue_sisd h hs),
    fun h h' hs => (frameValue_simd h h' hs).imp exec_rframe_of_frameValue exec_rframe_of_frameValue⟩

/-! ### The timer (60_exceptions.md R575) -/

theorem tickTimer_off {s : State} (h : s.mode2.getLsbD 5 = false) : tickTimer s = s := by
  unfold tickTimer
  rw [show timen s.mode2 = false from h]
  rfl

theorem tickTimer_zero {s : State} (hm : s.mode2.getLsbD 5 = true) (ht : s.params.timer = .steps) (hp : s.imaskp =
    0#32)
    (hc : s.tcount = 0#32) :
    tickTimer s = { s with tcount := s.tperiod, irptl := s.irptl ||| 0x00400010#32 } := by
  unfold tickTimer newRequests
  rw [show timen s.mode2 = true from hm, ht, if_pos rfl, if_pos hc, hp]
  rfl

theorem tickTimer_pos {s : State} (hm : s.mode2.getLsbD 5 = true) (ht : s.params.timer = .steps)
    (hc : s.tcount ≠ 0#32) : tickTimer s = { s with tcount := s.tcount - 1#32 } := by
  unfold tickTimer
  rw [show timen s.mode2 = true from hm, ht, if_pos rfl, if_neg hc]

/-- The timer counts down to 0. -/
theorem tickTimer_iterate {s : State} (hm : s.mode2.getLsbD 5 = true) (ht : s.params.timer = .steps) {k : Nat}
    (hk : k ≤ s.tcount.toNat) : tickTimer^[k] s = { s with tcount := s.tcount - BitVec.ofNat 32 k } := by
  induction k with
  | zero => simp
  | succ k ih =>
    have hne : s.tcount - BitVec.ofNat 32 k ≠ 0#32 := by
      have := s.tcount.isLt
      bv_omega
    have hsub : s.tcount - BitVec.ofNat 32 k - 1#32 = s.tcount - BitVec.ofNat 32 (k + 1) := by bv_omega
    rw [Function.iterate_succ_apply', ih (Nat.le_of_succ_le hk), ← hsub]
    exact tickTimer_pos (s := { s with tcount := s.tcount - BitVec.ofNat 32 k }) hm ht hne

/-- Settles O60: the count, by induction on the steps, and the step that finds it 0. -/
theorem timerPeriod : Obligations.TimerPeriod := by
  intro s hp ht
  refine ⟨tickTimer_off, fun hm => ⟨fun k hk => tickTimer_iterate hm ht hk, ?_⟩⟩
  rw [Function.iterate_succ_apply', tickTimer_iterate hm ht le_rfl]
  have hz : s.tcount - BitVec.ofNat 32 s.tcount.toNat = 0#32 := by simp
  exact tickTimer_zero (s := { s with tcount := _ }) hm ht hp hz

end Sys2Proof.Machine
end

section
/-! The Type 20 instructions (43_misc.md R338 to R345): each push and pop with the stack that can take it and with the
one
that cannot, and the instructions as their sequences. -/

-- One proof at a time: each thread that elaborates beside another reserves a gigabyte of the check's memory.
set_option Elab.async false

namespace Sys2Proof.Machine

/-! ### The operations, each with and without room -/

theorem pushPc_room {s : State} (h : s.pcStack.length < s.params.pcDepth) (source : PcSource) (a : ProgAddr) :
    pushPc s source a = .ok { s with pcStack := ⟨a, source⟩ :: s.pcStack } := if_pos h

theorem pushPc_full {s : State} (h : ¬ s.pcStack.length < s.params.pcDepth) (source : PcSource) (a : ProgAddr) :
    pushPc s source a = .error (.fault (.stackOverflow .pc)) := if_neg h

theorem pushLoop_room {s : State} (h : s.loops.length < s.params.loopDepth) (e : LoopEntry) :
    pushLoop s e = .ok { s with loops := e :: s.loops } := if_pos h

theorem pushLoop_full {s : State} (h : ¬ s.loops.length < s.params.loopDepth) (e : LoopEntry) :
    pushLoop s e = .error (.fault (.stackOverflow .loop)) := if_neg h

theorem pushSts_room {s : State} (h : s.sts.length < s.params.stsDepth) :
    pushSts s = .ok { s with sts := ⟨s.mode1, s.x.astat, s.y.astat⟩ :: s.sts, mode1 := maskedMode1 s } := if_pos h

theorem pushSts_full {s : State} (h : ¬ s.sts.length < s.params.stsDepth) :
    pushSts s = .error (.fault (.stackOverflow .status)) := if_neg h

theorem popPc_cons {s : State} {p : PcEntry} {rest : List PcEntry} (h : s.pcStack = p :: rest) :
    popPc s = .ok (p.addr, { s with pcStack := rest }) := (popPc_eq_ok ..).mpr ⟨p, rest, h, rfl, rfl⟩

theorem popPc_nil {s : State} (h : s.pcStack = []) : popPc s = .error (.fault (.stackUnderflow .pc)) := by
  unfold popPc
  rw [h]

theorem popLoop_of_ne {s : State} (h : s.loops ≠ []) : popLoop s = .ok { s with loops := s.loops.tail } := by
  obtain ⟨e, rest, he⟩ := List.exists_cons_of_ne_nil h
  exact (popLoop_eq_ok _ _).mpr ⟨e, rest, he, by rw [he]; rfl⟩

theorem popLoop_nil {s : State} (h : s.loops = []) : popLoop s = .error (.fault (.stackUnderflow .loop)) := by
  unfold popLoop
  rw [h]

theorem popSts_cons {s : State} {e : StatusEntry} {rest : List StatusEntry} (h : s.sts = e :: rest) :
    popSts s = .ok { s with
      sts := rest
      mode1 := e.mode1
      x := { s.x with astat := e.astatx }
      y := { s.y with astat := e.astaty } } := (popSts_eq_ok _ _).mpr ⟨e, rest, h, rfl⟩

theorem popSts_nil {s : State} (h : s.sts = []) : popSts s = .error (.fault (.stackUnderflow .status)) := by
  unfold popSts
  rw [h]

/-! ### The operations a word may ask for -/

/-- The entry PUSH PCSTK pushes. -/
def freePcEntry (s : State) : ProgAddr := (Config.freeWord .pcEntry s.clock).extractLsb' 0 24

/-- The counter PUSH LOOP pushes. -/
def freeCount (s : State) : Word := (Config.freeWord .countEntry s.clock).extractLsb' 0 32

theorem whenSet_pushPc {s : State} {go : Bool} (h : go = true → s.pcStack.length < s.params.pcDepth) :
    whenSet go pushFreePc s =
      .ok { s with pcStack := if go then ⟨freePcEntry s, .software⟩ :: s.pcStack else s.pcStack } := by
  cases go
  · rfl
  · exact pushPc_room (h rfl) _ _

theorem whenSet_pushPc_full {s : State} {go : Bool} (hg : go = true) (h : ¬ s.pcStack.length < s.params.pcDepth) :
    whenSet go pushFreePc s = .error (.fault (.stackOverflow .pc)) := by
  rw [hg]
  exact pushPc_full h _ _

theorem whenSet_pushSts {s : State} {go : Bool} (h : go = true → s.sts.length < s.params.stsDepth) :
    whenSet go pushSts s =
      .ok { s with
        sts := if go then ⟨s.mode1, s.x.astat, s.y.astat⟩ :: s.sts else s.sts
        mode1 := if go && s.params.irq.mmaskApplies then s.mode1 &&& ~~~s.mmask else s.mode1 } := by
  cases go
  · rfl
  · exact pushSts_room (h rfl)

theorem whenSet_pushSts_full {s : State} {go : Bool} (hg : go = true) (h : ¬ s.sts.length < s.params.stsDepth) :
    whenSet go pushSts s = .error (.fault (.stackOverflow .status)) := by
  rw [hg]
  exact pushSts_full h

theorem dropPc_of_ne {s : State} (h : s.pcStack ≠ []) : dropPc s = .ok { s with pcStack := s.pcStack.tail } := by
  obtain ⟨p, rest, he⟩ := List.exists_cons_of_ne_nil h
  unfold dropPc
  rw [popPc_cons he, Run.ok_bind, he]
  rfl

theorem dropPc_nil {s : State} (h : s.pcStack = []) : dropPc s = .error (.fault (.stackUnderflow .pc)) := by
  unfold dropPc
  rw [popPc_nil h]
  rfl

theorem whenSet_dropPc {s : State} {go : Bool} (h : go = true → s.pcStack ≠ []) :
    whenSet go dropPc s = .ok { s with pcStack := if go then s.pcStack.tail else s.pcStack } := by
  cases go
  · rfl
  · exact dropPc_of_ne (h rfl)

theorem whenSet_dropPc_nil {s : State} {go : Bool} (hg : go = true) (h : s.pcStack = []) :
    whenSet go dropPc s = .error (.fault (.stackUnderflow .pc)) := by
  rw [hg]
  exact dropPc_nil h

theorem flushIf_eq (s : State) (go : Bool) : flushIf s go = { s with stale := if go then [] else s.stale } := by
  cases go <;> rfl

/-! ### The instructions -/

theorem exec_pushPcstk (s : State) (fl : Bool) :
    exec (.pushPcstk fl) s = Run.outcome (pushFreePc s >>= fun s => pure (flushIf s fl)) := rfl

theorem exec_pushLoop (s : State) (a b fl : Bool) :
    exec (.pushLoop a b fl) s = Run.outcome (pushFreeLoop s >>= fun s => whenSet a pushSts s >>= fun s =>
      whenSet b pushFreePc s >>= fun s => pure (flushIf s fl)) := rfl

theorem exec_pushSts (s : State) (b fl : Bool) :
    exec (.pushSts b fl) s = Run.outcome (pushSts s >>= fun s => whenSet b pushFreePc s >>= fun s =>
      pure (flushIf s fl)) := rfl

theorem exec_popPcstk (s : State) (fl : Bool) :
    exec (.popPcstk fl) s = Run.outcome (dropPc s >>= fun s => pure (flushIf s fl)) := rfl

theorem exec_popLoop (s : State) (a b fl : Bool) :
    exec (.popLoop a b fl) s = Run.outcome (popLoop s >>= fun s => whenSet a popSts s >>= fun s =>
      whenSet b dropPc s >>= fun s => pure (flushIf s fl)) := rfl

theorem exec_popSts (s : State) (b fl : Bool) :
    exec (.popSts b fl) s = Run.outcome (popSts s >>= fun s => whenSet b dropPc s >>= fun s =>
      pure (flushIf s fl)) := rfl

theorem pushFreePc_room {s : State} (h : s.pcStack.length < s.params.pcDepth) :
    pushFreePc s = .ok { s with pcStack := ⟨freePcEntry s, .software⟩ :: s.pcStack } := pushPc_room h _ _

theorem pushFreePc_full {s : State} (h : ¬ s.pcStack.length < s.params.pcDepth) :
    pushFreePc s = .error (.fault (.stackOverflow .pc)) := pushPc_full h _ _

theorem pushFreeLoop_room {s : State} (h : s.loops.length < s.params.loopDepth) :
    pushFreeLoop s = .ok { s with loops := ⟨0#32, freeCount s, none⟩ :: s.loops } := pushLoop_room h _

theorem pushFreeLoop_full {s : State} (h : ¬ s.loops.length < s.params.loopDepth) :
    pushFreeLoop s = .error (.fault (.stackOverflow .loop)) := pushLoop_full h _

/-- Settles O57: each instruction is its sequence of pushes or pops, and the first that finds its stack full or empty
faults. -/
theorem stackInstructions : Obligations.StackInstructions := by
  intro s a b fl
  refine ⟨freePcEntry s, freeCount s, ?pushPc, ?pushPcFull, ?loop, ?loopFull, ?loopSts, ?loopPc, ?sts, ?stsFull, ?stsPc,
    ?popPc, ?popPcNil, ?popLoop, ?popLoopNil, ?popLoopSts, ?popLoopPc, ?popSts, ?popStsNil, ?popStsPc⟩
  case pushPc =>
    intro h
    rw [exec_pushPcstk, pushFreePc_room h, Run.ok_bind, flushIf_eq]
    rfl
  case pushPcFull =>
    intro h
    rw [exec_pushPcstk, pushFreePc_full h]
    rfl
  case loop =>
    intro hl hs hp
    rw [exec_pushLoop, pushFreeLoop_room hl, Run.ok_bind, whenSet_pushSts (by exact hs), Run.ok_bind, whenSet_pushPc
        (by exact hp),
      Run.ok_bind, flushIf_eq]
    rfl
  case loopFull =>
    intro h
    rw [exec_pushLoop, pushFreeLoop_full h]
    rfl
  case loopSts =>
    intro hl ha hs
    rw [exec_pushLoop, pushFreeLoop_room hl, Run.ok_bind, whenSet_pushSts_full ha (by exact hs)]
    rfl
  case loopPc =>
    intro hl hs hb hp
    rw [exec_pushLoop, pushFreeLoop_room hl, Run.ok_bind, whenSet_pushSts (by exact hs), Run.ok_bind,
        whenSet_pushPc_full hb (by exact hp)]
    rfl
  case sts =>
    intro hs hp
    rw [exec_pushSts, pushSts_room hs, Run.ok_bind, whenSet_pushPc (by exact hp), Run.ok_bind, flushIf_eq]
    rfl
  case stsFull =>
    intro h
    rw [exec_pushSts, pushSts_full h]
    rfl
  case stsPc =>
    intro hs hb hp
    rw [exec_pushSts, pushSts_room hs, Run.ok_bind, whenSet_pushPc_full hb (by exact hp)]
    rfl
  case popPc =>
    intro h
    rw [exec_popPcstk, dropPc_of_ne h, Run.ok_bind, flushIf_eq]
    rfl
  case popPcNil =>
    intro h
    rw [exec_popPcstk, dropPc_nil h]
    rfl
  case popLoop =>
    intro hl hp
    refine ⟨?_, fun e more hs => ?_⟩
    · rw [exec_popLoop, popLoop_of_ne hl, Run.ok_bind, whenSet_false, Run.ok_bind, whenSet_dropPc (by exact hp),
          Run.ok_bind,
        flushIf_eq]
      rfl
    · rw [exec_popLoop, popLoop_of_ne hl, Run.ok_bind, whenSet_true, popSts_cons (by exact hs), Run.ok_bind,
          whenSet_dropPc (by exact hp),
        Run.ok_bind, flushIf_eq]
      rfl
  case popLoopNil =>
    intro h
    rw [exec_popLoop, popLoop_nil h]
    rfl
  case popLoopSts =>
    intro hl ha hs
    rw [exec_popLoop, popLoop_of_ne hl, Run.ok_bind, ha, whenSet_true, popSts_nil (by exact hs)]
    rfl
  case popLoopPc =>
    intro hl hs hb hp
    rw [exec_popLoop, popLoop_of_ne hl, Run.ok_bind]
    cases a
    · rw [whenSet_false, Run.ok_bind, whenSet_dropPc_nil hb (by exact hp)]
      rfl
    · obtain ⟨e, more, he⟩ := List.exists_cons_of_ne_nil (hs rfl)
      rw [whenSet_true, popSts_cons (by exact he), Run.ok_bind, whenSet_dropPc_nil hb (by exact hp)]
      rfl
  case popSts =>
    intro hp e more hs
    rw [exec_popSts, popSts_cons hs, Run.ok_bind, whenSet_dropPc (by exact hp), Run.ok_bind, flushIf_eq]
    rfl
  case popStsNil =>
    intro h
    rw [exec_popSts, popSts_nil h]
    rfl
  case popStsPc =>
    intro hs hb hp
    obtain ⟨e, more, he⟩ := List.exists_cons_of_ne_nil hs
    rw [exec_popSts, popSts_cons he, Run.ok_bind, whenSet_dropPc_nil hb (by exact hp)]
    rfl

end Sys2Proof.Machine
end

section
/-! Program flow (41_program_flow.md): jumps, calls, returns and loop set-ups, each as its condition, the compute
beside it
and the operation of the sequencer where it is taken. -/

-- One proof at a time: each thread that elaborates beside another reserves a gigabyte of the check's memory.
set_option Elab.async false

namespace Sys2Proof.Machine

/-! ### The current interrupt (60_exceptions.md R563) -/

theorem lowestBit_eq_some {w : Word} {k : Nat} (hk : w.getLsbD k = true) (hj : ∀ j, j < k → w.getLsbD j = false) :
    lowestBit w = some k := by
  have h32 : k < 32 := by
    by_contra h
    rw [BitVec.getLsbD_of_ge w k (Nat.le_of_not_lt h)] at hk
    cases hk
  unfold lowestBit
  rw [List.find?_range_eq_some]
  exact ⟨hk, List.mem_range.mpr h32, fun j h => by rw [hj j h]; rfl⟩

theorem clearInterrupt_none {s : State} (h : s.imaskp = 0#32) : clearInterrupt s = s := by
  unfold clearInterrupt State.currentInterrupt
  rw [h]
  rfl

theorem clearInterrupt_some {s : State} {k : Nat} (h : s.currentInterrupt = some k) :
    clearInterrupt s =
      { s with
        irptl := s.irptl &&& ~~~(1#32 <<< k)
        hostIrq := s.hostIrq &&& ~~~(1#32 <<< k)
        imaskp := s.imaskp &&& ~~~(1#32 <<< k) } := by
  unfold clearInterrupt
  rw [h]
  rfl

theorem clearInterrupt_loops (s : State) : (clearInterrupt s).loops = s.loops := by
  rcases clearInterrupt_eq s with h | ⟨k, -, h⟩ <;> rw [h]

theorem clearInterrupt_pcStack (s : State) : (clearInterrupt s).pcStack = s.pcStack := by
  rcases clearInterrupt_eq s with h | ⟨k, -, h⟩ <;> rw [h]

/-! ### A taken branch -/

theorem abortLoop_of_ne {s : State} (hl : s.loops ≠ []) (hp : s.pcStack ≠ []) :
    abortLoop s = .ok { s with loops := s.loops.tail, pcStack := s.pcStack.tail } := by
  obtain ⟨p, rest, he⟩ := List.exists_cons_of_ne_nil hp
  unfold abortLoop
  rw [popLoop_of_ne hl, Run.ok_bind, popPc_cons (by exact he), he]
  rfl

theorem jumpTo_ok {t : State} {mods : JumpMods} (h : canAbort t mods) (a : ProgAddr) :
    jumpTo t mods a = .ok (jumped t mods a) := by
  unfold jumpTo jumped
  cases hm : mods.loopAbort && !mods.delayed
  · rfl
  · simp only [Bool.and_eq_true, Bool.not_eq_true'] at hm
    obtain ⟨hl, hp⟩ := h hm.1 hm.2
    dsimp only
    rw [if_pos rfl, if_pos rfl]
    cases mods.clearInterrupt
    · rw [if_neg Bool.false_ne_true, abortLoop_of_ne hl hp]
      rfl
    · rw [if_pos rfl, abortLoop_of_ne (by rwa [clearInterrupt_loops]) (by rwa [clearInterrupt_pcStack])]
      rfl

theorem jumpTo_abort {t : State} {mods : JumpMods} (hla : mods.loopAbort = true) (hd : mods.delayed = false)
    {e : Stop} (h : ∀ u : State, u.loops = t.loops → u.pcStack = t.pcStack → abortLoop u = .error e) (a : ProgAddr) :
    jumpTo t mods a = .error e := by
  unfold jumpTo
  dsimp only
  rw [hla, hd]
  cases mods.clearInterrupt
  · exact congrArg (· >>= _) (h t rfl rfl)
  · exact congrArg (· >>= _) (h _ (clearInterrupt_loops t) (clearInterrupt_pcStack t))

theorem callTo_room {t : State} (h : t.pcStack.length < t.params.pcDepth) (delayed : Bool) (a : ProgAddr) :
    callTo t delayed a = .ok { t with
      pcStack := ⟨if delayed then t.pc + 3#24 else t.pc + 1#24, .call⟩ :: t.pcStack
      request := some ⟨a, delayed, false⟩ } := by
  have hr : returnAddr t delayed = if delayed then t.pc + 3#24 else t.pc + 1#24 := by
    unfold returnAddr
    cases delayed
    · exact BitVec.add_zero _
    · exact BitVec.add_assoc ..
  unfold callTo
  rw [pushPc_room h, Run.ok_bind, hr]
  rfl

theorem callTo_full {t : State} (h : ¬ t.pcStack.length < t.params.pcDepth) (delayed : Bool) (a : ProgAddr) :
    callTo t delayed a = .error (.fault (.stackOverflow .pc)) := by
  unfold callTo
  rw [pushPc_full h]
  rfl

/-! ### The forms of a jump and a call -/

section
variable {s : State} {cond : Cond} {p : CondPair} (hp : evalCond s cond = .ok p)
include hp

theorem exec_jumpAbs (mods : JumpMods) (addr : ProgAddr) :
    exec (.jumpAbs cond mods addr) s = Run.outcome (if takes s p then jumpTo s mods addr else .ok s) := by
  show Run.outcome (evalCond s cond >>= _) = _
  rw [hp]
  rfl

theorem exec_jumpRel (mods : JumpMods) (rel : ProgAddr) :
    exec (.jumpRel cond mods rel) s = Run.outcome (if takes s p then jumpTo s mods (s.pc + rel) else .ok s) := by
  show Run.outcome (evalCond s cond >>= _) = _
  rw [hp]
  rfl

theorem exec_callAbs (delayed : Bool) (addr : ProgAddr) :
    exec (.callAbs cond delayed addr) s = Run.outcome (if takes s p then callTo s delayed addr else .ok s) := by
  show Run.outcome (evalCond s cond >>= _) = _
  rw [hp]
  rfl

theorem exec_callRel (delayed : Bool) (rel : ProgAddr) :
    exec (.callRel cond delayed rel) s =
      Run.outcome (if takes s p then callTo s delayed (s.pc + rel) else .ok s) := by
  show Run.outcome (evalCond s cond >>= _) = _
  rw [hp]
  rfl

variable {c : Compute} (hc : (destRegs c).Nodup) (els : Bool)
include hc

/-- A flow instruction with a compute: the compute where ELSE has it run, then the branch if it is taken. -/
theorem exec_of_elseWrites (go : State → Run State) :
    (evalCond s cond >>= fun p => commit s (elseWrites s p els c) >>= fun t => if takes s p then go t else pure t) =
      if takes s p then go (computed s c (elseElements s p els)) else .ok (computed s c (elseElements s p els)) := by
  rw [hp, Run.ok_bind, show commit s (elseWrites s p els c) = .ok (computed s c (elseElements s p els)) from
    commit_computeWrites s c _ _ hc]
  rfl

theorem exec_jumpInd (mods : JumpMods) (i m : Fin 8) :
    exec (.jumpInd cond mods els i m c) s = Run.outcome (if takes s p then
      jumpTo (computed s c (elseElements s p els)) mods ((s.i[Dag.pm.reg i] + s.m[Dag.pm.reg m]).extractLsb' 0 24)
      else .ok (computed s c (elseElements s p els))) :=
  congrArg Run.outcome (exec_of_elseWrites hp hc els fun t => jumpTo t mods (indirectTarget s i m))

theorem exec_jumpRel6 (mods : JumpMods) (rel6 : BitVec 6) :
    exec (.jumpRel6 cond mods els rel6 c) s = Run.outcome (if takes s p then
      jumpTo (computed s c (elseElements s p els)) mods (s.pc + rel6.signExtend 24)
      else .ok (computed s c (elseElements s p els))) :=
  congrArg Run.outcome (exec_of_elseWrites hp hc els fun t => jumpTo t mods (relTarget6 s rel6))

theorem exec_callInd (delayed : Bool) (i m : Fin 8) :
    exec (.callInd cond delayed els i m c) s = Run.outcome (if takes s p then
      callTo (computed s c (elseElements s p els)) delayed ((s.i[Dag.pm.reg i] + s.m[Dag.pm.reg m]).extractLsb' 0 24)
      else .ok (computed s c (elseElements s p els))) :=
  congrArg Run.outcome (exec_of_elseWrites hp hc els fun t => callTo t delayed (indirectTarget s i m))

theorem exec_callRel6 (delayed : Bool) (rel6 : BitVec 6) :
    exec (.callRel6 cond delayed els rel6 c) s = Run.outcome (if takes s p then
      callTo (computed s c (elseElements s p els)) delayed (s.pc + rel6.signExtend 24)
      else .ok (computed s c (elseElements s p els))) :=
  congrArg Run.outcome (exec_of_elseWrites hp hc els fun t => callTo t delayed (relTarget6 s rel6))

theorem exec_rts (delayed lr : Bool) :
    exec (.rts cond delayed els lr c) s = Run.outcome (if takes s p then
      returnTo (computed s c (elseElements s p els)) delayed lr else .ok (computed s c (elseElements s p els))) :=
  congrArg Run.outcome (exec_of_elseWrites hp hc els fun t => returnTo t delayed lr)

theorem exec_rti (delayed : Bool) :
    exec (.rti cond delayed els c) s = Run.outcome (if takes s p then
      interruptReturn (computed s c (elseElements s p els)) delayed
      else .ok (computed s c (elseElements s p els))) :=
  congrArg Run.outcome (exec_of_elseWrites hp hc els fun t => interruptReturn t delayed)

end

/-! ### Jumps and calls -/

/-- Settles O49: a taken jump is `jumped` where (LA) finds its loop, and its fault where it does not. -/
theorem jumps : Obligations.Jumps := by
  intro s cond mods els i m c addr rel rel6 p hp hc
  have fails : ∀ {e : Stop}, takes s p = true → mods.loopAbort = true → mods.delayed = false →
      (∀ u : State, u.loops = s.loops → u.pcStack = s.pcStack → abortLoop u = .error e) →
      exec (.jumpAbs cond mods addr) s = Run.outcome (.error e) ∧
      exec (.jumpRel cond mods rel) s = Run.outcome (.error e) ∧
      exec (.jumpInd cond mods els i m c) s = Run.outcome (.error e) ∧
      exec (.jumpRel6 cond mods els rel6 c) s = Run.outcome (.error e) := by
    intro e ht hla hd ha
    rw [exec_jumpAbs hp, exec_jumpRel hp, exec_jumpInd hp hc, exec_jumpRel6 hp hc, if_pos ht, if_pos ht, if_pos ht,
      if_pos ht]
    refine ⟨?_, ?_, ?_, ?_⟩
    all_goals rw [jumpTo_abort hla hd (by exact ha)]
  refine ⟨fun ht ha => ?taken, fun ht hla hd => ⟨fun hl => ?noLoop, fun hl hpc => ?noPc⟩, fun ht => ?untaken,
    clearInterrupt_none, fun k hk hj => clearInterrupt_some (lowestBit_eq_some hk hj)⟩
  case taken =>
    rw [exec_jumpAbs hp, exec_jumpRel hp, exec_jumpInd hp hc, exec_jumpRel6 hp hc, show takes s p = true from ht]
    refine ⟨?_, ?_, ?_, ?_⟩
    all_goals
      rw [if_pos rfl, jumpTo_ok (by exact ha)]
      rfl
  case noLoop =>
    refine fails (e := .fault (.stackUnderflow .loop)) ht hla hd fun u hu _ => ?_
    unfold abortLoop
    rw [popLoop_nil (hu.trans hl)]
    rfl
  case noPc =>
    refine fails (e := .fault (.stackUnderflow .pc)) ht hla hd fun u hu hup => ?_
    unfold abortLoop
    rw [popLoop_of_ne (by rwa [hu]), Run.ok_bind, popPc_nil (by exact hup.trans hpc)]
    rfl
  case untaken =>
    rw [exec_jumpAbs hp, exec_jumpRel hp, exec_jumpInd hp hc, exec_jumpRel6 hp hc, show takes s p = false from ht]
    exact ⟨rfl, rfl, rfl, rfl⟩

/-- Settles O50: a taken call pushes its return address where the stack has room. -/
theorem calls : Obligations.Calls := by
  intro s cond delayed els i m c addr rel rel6 p hp hc
  rw [exec_callAbs hp, exec_callRel hp, exec_callInd hp hc, exec_callRel6 hp hc]
  refine ⟨fun ht hr => ?room, fun ht hf => ?full, fun ht => ?untaken⟩
  case room =>
    rw [show takes s p = true from ht]
    refine ⟨?_, ?_, ?_, ?_⟩
    all_goals
      rw [if_pos rfl, callTo_room (by exact hr)]
      rfl
  case full =>
    rw [show takes s p = true from ht]
    refine ⟨?_, ?_, ?_, ?_⟩
    all_goals
      rw [if_pos rfl, callTo_full (by exact Nat.not_lt_of_le hf)]
      rfl
  case untaken =>
    rw [show takes s p = false from ht]
    exact ⟨rfl, rfl, rfl, rfl⟩

/-! ### Returns -/

theorem nearLoopEnd_eq_true (s : State) (a : ProgAddr) :
    nearLoopEnd s a = true ↔ ∃ e ∈ s.loops.head?, a = e.endAddr ∨ a + 1#24 = e.endAddr ∨ a + 2#24 = e.endAddr := by
  unfold nearLoopEnd nearEnd
  cases s.loops <;> simp

theorem returnTo_cons {t : State} {a : ProgAddr} {src : PcSource} {rest : List PcEntry}
    (h : t.pcStack = ⟨a, src⟩ :: rest) (delayed lr : Bool) :
    returnTo t delayed lr =
      if nearLoopEnd t a && !delayed && !lr then refuse .loopReentry
      else .ok { t with pcStack := rest, request := some ⟨a, delayed, false⟩ } := by
  unfold returnTo
  rw [popPc_cons h]
  rfl

/-- Settles O52: a taken return is the pop of its address, refused near the end of the innermost loop. -/
theorem returns : Obligations.Returns := by
  intro s cond delayed els lr c p hp hc
  rw [exec_rts hp hc, show (p.cx && (!s.simd || p.cy)) = takes s p from rfl]
  refine ⟨fun ht => ⟨fun a src rest hs => ?_, fun hs => ?_⟩, fun ht => ?_⟩
  · rw [if_pos ht, returnTo_cons (t := computed s c (elseElements s p els)) hs]
    have hnear := nearLoopEnd_eq_true (computed s c (elseElements s p els)) a
    refine ⟨fun ⟨hn, hd, hl⟩ => ?_, fun hn => ?_⟩
    · rw [hnear.mpr hn, hd, hl]
      rfl
    · rw [if_neg]
      · rfl
      · simp only [Bool.and_eq_true, Bool.not_eq_true', not_and]
        intro ⟨hl, hd⟩ hlr
        exact hn ⟨hnear.mp hl, hd, hlr⟩
  · rw [if_pos ht]
    unfold returnTo
    rw [popPc_nil (s := computed s c (elseElements s p els)) hs]
    rfl
  · rw [show takes s p = false from ht]
    rfl

theorem whenSet_of_false {go : Bool} (h : go = false) (act : State → Run State) (s : State) :
    whenSet go act s = .ok s := by
  rw [h, whenSet_false]

theorem whenSet_of_true {go : Bool} (h : go = true) (act : State → Run State) (s : State) :
    whenSet go act s = act s := by
  rw [h, whenSet_true]

section
variable {t : State} {a : ProgAddr} {src : PcSource} {rest : List PcEntry} (h : t.pcStack = ⟨a, src⟩ :: rest)
  (delayed : Bool)
include h

/-- The return from an interrupt that did not push the status stack. -/
theorem interruptReturn_plain (hk : t.currentInterrupt.any (pushesStatus t) = false) :
    interruptReturn t delayed =
      .ok (requestBranch (clearInterrupt { t with pcStack := rest }) a delayed false) := by
  unfold interruptReturn returnFromInterrupt
  rw [popPc_cons h, Run.ok_bind]
  dsimp only
  rw [whenSet_of_false (by exact hk)]
  rfl

theorem interruptReturn_status (hk : t.currentInterrupt.any (pushesStatus t) = true) {e : StatusEntry}
    {more : List StatusEntry} (hs : t.sts = e :: more) :
    interruptReturn t delayed =
      .ok (requestBranch (clearInterrupt { t with
        pcStack := rest
        sts := more
        mode1 := e.mode1
        x := { t.x with astat := e.astatx }
        y := { t.y with astat := e.astaty } }) a delayed false) := by
  unfold interruptReturn returnFromInterrupt
  rw [popPc_cons h, Run.ok_bind]
  dsimp only
  rw [whenSet_of_true (by exact hk), popSts_cons (by exact hs)]
  rfl

theorem interruptReturn_statusNil (hk : t.currentInterrupt.any (pushesStatus t) = true) (hs : t.sts = []) :
    interruptReturn t delayed = .error (.fault (.stackUnderflow .status)) := by
  unfold interruptReturn returnFromInterrupt
  rw [popPc_cons h, Run.ok_bind]
  dsimp only
  rw [whenSet_of_true (by exact hk), popSts_nil (by exact hs)]
  rfl

end

theorem interruptReturn_nil {t : State} (h : t.pcStack = []) (delayed : Bool) :
    interruptReturn t delayed = .error (.fault (.stackUnderflow .pc)) := by
  unfold interruptReturn returnFromInterrupt
  rw [popPc_nil h]
  rfl

/-- Settles O53: a taken return from an interrupt, by the current interrupt and whether it pushed the status stack. -/
theorem interruptReturns : Obligations.InterruptReturns := by
  intro s cond delayed els c p hp hc
  rw [exec_rti hp hc, show (p.cx && (!s.simd || p.cy)) = takes s p from rfl]
  refine ⟨fun ht => ⟨fun a src rest hs => ⟨fun hz => ?none, fun k hk hj => ?some⟩, fun hs => ?empty⟩, fun ht =>
      ?untaken⟩
  case none =>
    have hn : s.currentInterrupt = none := by
      unfold State.currentInterrupt
      rw [hz]
      rfl
    rw [if_pos ht, interruptReturn_plain (by exact hs) delayed (by exact congrArg (Option.any _) hn),
      clearInterrupt_none (by exact hz)]
    rfl
  case some =>
    have hcur : s.currentInterrupt = some k := lowestBit_eq_some hk hj
    have hany : ∀ b, pushesStatus s k = b → s.currentInterrupt.any (pushesStatus s) = b := by
      rintro b rfl
      rw [hcur]
      rfl
    rw [if_pos ht]
    refine ⟨fun hps => ?_, fun hps => ⟨fun e more hsts => ?_, fun hsts => ?_⟩⟩
    · rw [interruptReturn_plain (by exact hs) delayed (by exact hany _ hps), clearInterrupt_some (by exact hcur)]
      rfl
    · rw [interruptReturn_status (by exact hs) delayed (by exact hany _ hps) (by exact hsts),
        clearInterrupt_some (by exact hcur)]
      rfl
    · rw [interruptReturn_statusNil (by exact hs) delayed (by exact hany _ hps) (by exact hsts)]
      rfl
  case empty =>
    rw [if_pos ht, interruptReturn_nil (by exact hs)]
    rfl
  case untaken =>
    rw [show takes s p = false from ht]
    rfl

/-! ### Loop set-ups -/

theorem loopForbidden_eq_true (s : State) (rel : ProgAddr) :
    loopForbidden s rel = true ↔ rel.toInt ≤ 0 ∨ ∃ e ∈ s.loops, e.endAddr = s.pc + rel ∨
      e.endAddr = s.pc ∨ e.endAddr = s.pc + 1#24 ∨ e.endAddr = s.pc + 2#24 := by
  unfold loopForbidden nearEnd
  simp only [Bool.or_eq_true, decide_eq_true_eq, List.any_eq_true]
  constructor
  · rintro ((h | ⟨e, he, h⟩) | ⟨e, he, h⟩)
    · exact .inl (by omega)
    · exact .inr ⟨e, he, .inl h⟩
    · exact .inr ⟨e, he, .inr (h.imp Eq.symm (Or.imp Eq.symm Eq.symm))⟩
  · rintro (h | ⟨e, he, h | h⟩)
    · exact .inl (.inl (by omega))
    · exact .inl (.inr ⟨e, he, h⟩)
    · exact .inr ⟨e, he, h.imp Eq.symm (Or.imp Eq.symm Eq.symm)⟩

theorem setUpLoop_forbidden {s : State} {rel : ProgAddr} (h : loopForbidden s rel = true) (term : Cond) :
    setUpLoop s term rel = refuse .loopEnd := if_pos h

theorem setUpLoop_room {s : State} {rel : ProgAddr} (h : loopForbidden s rel = false)
    (hp : s.pcStack.length < s.params.pcDepth) (hl : s.loops.length < s.params.loopDepth) (term : Cond) :
    setUpLoop s term rel = .ok { s with
      pcStack := ⟨s.pc + 1#24, .loop s.clock⟩ :: s.pcStack
      loops := ⟨packLaddr (s.pc + rel) term, s.lcntr, some ⟨s.clock, s.pc + 1#24⟩⟩ :: s.loops } := by
  unfold setUpLoop
  rw [h, if_neg Bool.false_ne_true, pushPc_room hp, Run.ok_bind, pushLoop_room (by exact hl)]

theorem setUpLoop_fullPc {s : State} {rel : ProgAddr} (h : loopForbidden s rel = false)
    (hp : ¬ s.pcStack.length < s.params.pcDepth) (term : Cond) :
    setUpLoop s term rel = .error (.fault (.stackOverflow .pc)) := by
  unfold setUpLoop
  rw [h, if_neg Bool.false_ne_true, pushPc_full hp]
  rfl

theorem setUpLoop_fullLoop {s : State} {rel : ProgAddr} (h : loopForbidden s rel = false)
    (hp : s.pcStack.length < s.params.pcDepth) (hl : ¬ s.loops.length < s.params.loopDepth) (term : Cond) :
    setUpLoop s term rel = .error (.fault (.stackOverflow .loop)) := by
  unfold setUpLoop
  rw [h, if_neg Bool.false_ne_true, pushPc_room hp, Run.ok_bind, pushLoop_full (by exact hl)]

theorem exec_doCountImm (s : State) (count : BitVec 16) (rel : ProgAddr) :
    exec (.doCountImm count rel) s = Run.outcome (setUpLoop { s with lcntr := count.setWidth 32 } .lce rel) := rfl

theorem exec_doCountReg {s : State} {u : UReg} {v : BusWord} (hu : u ≠ .px) (hv : s.readUReg u = .ok v)
    (rel : ProgAddr) :
    exec (.doCountReg u rel) s = Run.outcome (setUpLoop { s with lcntr := to32 v } .lce rel) := by
  show execDoCountReg u rel s = _
  unfold execDoCountReg
  rw [if_neg hu, hv]
  rfl

theorem exec_doUntil (s : State) (term : Cond) (rel : ProgAddr) :
    exec (.doUntil term rel) s = Run.outcome (setUpLoop s term rel) := rfl

/-- Settles O54: the three forms set up one loop, with the counter each of them says. -/
theorem loopSetUp : Obligations.LoopSetUp := by
  intro s count u term rel v
  refine ⟨rfl, fun hu hv => ?_⟩
  rw [exec_doCountImm, exec_doCountReg hu hv, exec_doUntil]
  refine ⟨fun hf => ?forbidden, fun hf => ⟨fun hp hl => ?room, fun hp => ?fullPc, fun hp hl => ?fullLoop⟩⟩
  case forbidden =>
    have hf := (loopForbidden_eq_true s rel).mpr hf
    refine ⟨?_, ?_, ?_⟩
    all_goals
      rw [setUpLoop_forbidden (by exact hf)]
      rfl
  all_goals have hf : loopForbidden s rel = false := Bool.eq_false_iff.mpr fun h => hf ((loopForbidden_eq_true s
      rel).mp h)
  case room =>
    refine ⟨?_, ?_, ?_⟩
    all_goals
      rw [setUpLoop_room (by exact hf) (by exact hp) (by exact hl)]
      rfl
  case fullPc =>
    refine ⟨?_, ?_, ?_⟩
    all_goals
      rw [setUpLoop_fullPc (by exact hf) (by exact Nat.not_lt_of_le hp)]
      rfl
  case fullLoop =>
    refine ⟨?_, ?_, ?_⟩
    all_goals
      rw [setUpLoop_fullLoop (by exact hf) (by exact hp) (by exact Nat.not_lt_of_le hl)]
      rfl

end Sys2Proof.Machine
end

section
/-! Interrupts (60_exceptions.md): which requests are latched, which interrupt is looked for, what its entry saves and
what
the return from it restores. -/

-- One proof at a time: each thread that elaborates beside another reserves a gigabyte of the check's memory.
set_option Elab.async false

namespace Sys2Proof.Machine

/-! ### Requests (R554, R566) -/

theorem bitWord_eq_setBit (n : Nat) (b : Bool) : bitWord n b = setBit 0#32 n b := by
  unfold bitWord setBit
  cases b
  · exact (BitVec.zero_and ..).symm
  · exact (BitVec.zero_or ..).symm

theorem bitWord_getLsbD {n : Nat} (hn : n < 32) (b : Bool) (k : Nat) : (bitWord n b).getLsbD k = (k == n && b) := by
  rw [bitWord_eq_setBit, setBit_getLsbD _ _ _ _ hn]
  by_cases h : k = n
  · simp [h]
  · simp [h]

/-- The sticky bits of either element. -/
def stickyBit (s : State) (k : Nat) : Bool := s.x.stky.getLsbD k || s.y.stky.getLsbD k

/-- The arithmetic request of bit `k`, where the parameter has them. -/
def arithmeticBit (s : State) (k : Nat) : Bool :=
  s.params.irq.arithmetic && (k == 23 && (stickyBit s 2 || stickyBit s 6) ||
    k == 24 && (stickyBit s 1 || stickyBit s 7) || k == 25 && (stickyBit s 0 || stickyBit s 8) ||
    k == 26 && (stickyBit s 5 || stickyBit s 9))

theorem arithmeticRequests_getLsbD (s : State) (k : Nat) :
    (arithmeticRequests s).getLsbD k = (k == 23 && (stickyBit s 2 || stickyBit s 6) ||
      k == 24 && (stickyBit s 1 || stickyBit s 7) || k == 25 && (stickyBit s 0 || stickyBit s 8) ||
      k == 26 && (stickyBit s 5 || stickyBit s 9)) := by
  unfold arithmeticRequests stickyBit
  dsimp only
  simp only [BitVec.getLsbD_or, bitWord_getLsbD (show 23 < 32 by decide), bitWord_getLsbD (show 24 < 32 by decide),
    bitWord_getLsbD (show 25 < 32 by decide), bitWord_getLsbD (show 26 < 32 by decide)]

theorem newRequests_getLsbD (s : State) (w : Word) (k : Nat) :
    (newRequests s w).getLsbD k = (w.getLsbD k && !s.imaskp.getLsbD k) := by
  unfold newRequests
  by_cases hk : k < 32
  · simp [hk]
  · simp [BitVec.getLsbD_of_ge w k (by omega)]

theorem arithmeticLatch_getLsbD (s : State) (k : Nat) :
    (arithmeticLatch s).getLsbD k = (arithmeticBit s k && !s.imaskp.getLsbD k) := by
  unfold arithmeticLatch arithmeticBit
  cases s.params.irq.arithmetic
  · simp
  · rw [if_pos rfl, newRequests_getLsbD, arithmeticRequests_getLsbD, Bool.true_and]

/-- What is latched after the requests: what was, the arithmetic requests, and of the outside ones those the parameter
names, but no bit of an interrupt in service. -/
theorem latchRequests_latched (s : State) : ∃ w : Word, ∀ k, (latchRequests s).latched k =
    (s.latched k || (arithmeticBit s k || s.params.irq.external.getLsbD k && w.getLsbD k) && !s.imaskp.getLsbD k) := by
  refine ⟨(Config.freeWord .external s.clock).extractLsb' 0 32, fun k => ?_⟩
  unfold State.latched latchRequests
  simp only [BitVec.getLsbD_or, arithmeticLatch_getLsbD, newRequests_getLsbD]
  cases s.irptl.getLsbD k <;> cases s.params.irq.external.getLsbD k <;> cases s.hostIrq.getLsbD k <;>
    cases s.imaskp.getLsbD k <;> simp

/-! ### The interrupt looked for (R559, R561) -/

/-- The interrupt may be taken: latched, not in service, enabled, and above whatever is in service. -/
def Able (s : State) (k : Nat) : Prop :=
  s.latched k = true ∧ s.imaskp.getLsbD k = false ∧
    (k ≤ 1 ∨ (s.mode1.getLsbD 12 = true ∧ s.imask.getLsbD k = true)) ∧
    (s.imaskp = 0#32 ∨ (s.mode1.getLsbD 11 = true ∧ ∀ j, s.imaskp.getLsbD j = true → k < j) ∨ k ≤ 1)

theorem currentInterrupt_eq_none (s : State) : s.currentInterrupt = none ↔ s.imaskp = 0#32 := by
  unfold State.currentInterrupt lowestBit
  rw [List.find?_range_eq_none]
  constructor
  · intro h
    refine BitVec.eq_of_getLsbD_eq fun k hk => ?_
    simpa using h k hk
  · intro h k _
    rw [h]
    simp

theorem currentInterrupt_eq_some {s : State} {top : Nat} (h : s.currentInterrupt = some top) :
    s.imaskp.getLsbD top = true ∧ ∀ j, j < top → s.imaskp.getLsbD j = false := by
  unfold State.currentInterrupt lowestBit at h
  rw [List.find?_range_eq_some] at h
  exact ⟨h.1, fun j hj => by simpa using h.2.2 j hj⟩

/-- What may interrupt the interrupt in service. -/
theorem interrupts_current (s : State) (k : Nat) :
    s.currentInterrupt.all (fun top => nestm s.mode1 && decide (k < top) || decide (k ≤ 1)) = true ↔
      s.imaskp = 0#32 ∨ (s.mode1.getLsbD 11 = true ∧ ∀ j, s.imaskp.getLsbD j = true → k < j) ∨ k ≤ 1 := by
  cases hc : s.currentInterrupt with
  | none => simp [(currentInterrupt_eq_none s).mp hc]
  | some top =>
    obtain ⟨ht, hl⟩ := currentInterrupt_eq_some hc
    have hz : s.imaskp ≠ 0#32 := fun h => by simp [h] at ht
    have hlow : (∀ j, s.imaskp.getLsbD j = true → k < j) ↔ k < top := by
      refine ⟨fun h => h top ht, fun h j hj => ?_⟩
      by_contra hn
      rw [hl j (by omega)] at hj
      cases hj
    simp [hz, hlow, nestm]

theorem qualifies_eq (s : State) (k : Nat) :
    qualifies s k = ((decide (k ≤ 1) || (irpten s.mode1 && s.imask.getLsbD k)) && !s.imaskp.getLsbD k && s.latched k &&
      s.currentInterrupt.all (fun top => nestm s.mode1 && decide (k < top) || decide (k ≤ 1))) := by
  unfold qualifies
  cases s.currentInterrupt <;> rfl

theorem qualifies_eq_true (s : State) (k : Nat) : qualifies s k = true ↔ Able s k := by
  rw [qualifies_eq, Bool.and_eq_true, Bool.and_eq_true, Bool.and_eq_true, interrupts_current]
  unfold Able
  simp only [Bool.or_eq_true, decide_eq_true_eq, Bool.and_eq_true, Bool.not_eq_true', irpten]
  tauto

theorem Able.lt {s : State} {k : Nat} (h : Able s k) : k < 32 := by
  by_contra hk
  have hl := h.1
  unfold State.latched at hl
  rw [BitVec.getLsbD_of_ge _ _ (Nat.le_of_not_lt hk), BitVec.getLsbD_of_ge s.hostIrq _ (Nat.le_of_not_lt hk)] at hl
  simp at hl

theorem nextInterrupt_eq_some (s : State) (k : Nat) :
    nextInterrupt s = some k ↔ Able s k ∧ ∀ j, j < k → ¬ Able s j := by
  unfold nextInterrupt
  rw [List.find?_range_eq_some, qualifies_eq_true, List.mem_range]
  have hn : ∀ j, (!qualifies s j) = true ↔ ¬ Able s j := fun j => by
    rw [Bool.not_eq_true', ← qualifies_eq_true, Bool.not_eq_true]
  exact ⟨fun ⟨ha, _, hj⟩ => ⟨ha, fun j h => (hn j).mp (hj j h)⟩,
    fun ⟨ha, hj⟩ => ⟨ha, ha.lt, fun j h => (hn j).mpr (hj j h)⟩⟩

theorem nextInterrupt_eq_none (s : State) : nextInterrupt s = none ↔ ∀ k, ¬ Able s k := by
  unfold nextInterrupt
  rw [List.find?_range_eq_none]
  have hn : ∀ j, (!qualifies s j) = true ↔ ¬ Able s j := fun j => by
    rw [Bool.not_eq_true', ← qualifies_eq_true, Bool.not_eq_true]
  exact ⟨fun h k ha => (hn k).mp (h k ha.lt) ha, fun h k _ => (hn k).mpr (h k)⟩

/-- Settles O29: the bits of the latched requests, and the lowest bit that may be taken. -/
theorem interruptRequests : Obligations.InterruptRequests := by
  intro s
  obtain ⟨w, hw⟩ := latchRequests_latched s
  refine ⟨rfl, fun k _ hk => ?_, fun k _ hk => ⟨fun hl => ?_, fun he => ?_, fun ha => ?_⟩, nextInterrupt_eq_some s,
    nextInterrupt_eq_none s⟩
  · rw [hw, hk]
    simp
  · rw [hw, hl]
    rfl
  · rw [hw, hk, he]
    simp [arithmeticBit, stickyBit]
  · rw [hw, hk, show arithmeticBit s k = true from ha]
    simp

/-! ### The entry (R562) -/

/-- Settles O30: an interrupt that has waited long enough is taken when no delayed branch is pending. -/
theorem interruptEntry : Obligations.InterruptEntry := by
  intro s k hk hw
  have taken : s.dbr = none → sampleInterrupts s = takeInterrupt { s with irqWait := 0 } k s.pc := by
    intro hd
    unfold sampleInterrupts
    rw [hd, hk]
    simp [hw]
  refine ⟨fun hd => ⟨fun hp hs => ?entered, fun hp => ?fullPc, fun hp hps hs => ?fullSts⟩, fun hd => ?pending⟩
  case entered =>
    rw [taken hd, (takeInterrupt_eq_ok { s with irqWait := 0 } _ k s.pc).mpr ⟨hp, hs, rfl⟩]
    unfold pushesStatus maskedMode1
    cases s.params.irq.pushesStatus.getLsbD k <;> cases s.params.irq.mmaskApplies <;> rfl
  case fullPc =>
    rw [taken hd]
    unfold takeInterrupt
    rw [pushPc_full (by exact Nat.not_lt_of_le hp)]
    rfl
  case fullSts =>
    rw [taken hd]
    unfold takeInterrupt
    rw [pushPc_room (by exact hp), Run.ok_bind, whenSet_of_true (by exact hps),
      pushSts_full (by exact Nat.not_lt_of_le hs)]
    rfl
  case pending =>
    unfold sampleInterrupts
    rw [if_pos (Option.isSome_iff_ne_none.mpr hd)]

/-! ### The return (R278) -/

theorem setBit_getLsbD_same {w : Word} {k : Nat} (hk : k < 32) (v : Bool) : (setBit w k v).getLsbD k = v := by
  rw [setBit_getLsbD _ _ _ _ hk, if_pos rfl]

/-- A bit that was clear, set and cleared again. -/
theorem setBit_undo {w : Word} {k : Nat} (hk : k < 32) (hw : w.getLsbD k = false) :
    setBit (setBit w k true) k false = w := by
  refine BitVec.eq_of_getLsbD_eq fun j _ => ?_
  rw [setBit_getLsbD _ _ _ _ hk, setBit_getLsbD _ _ _ _ hk]
  by_cases h : j = k
  · rw [if_pos h, h, hw]
  · rw [if_neg h, if_neg h]

theorem computed_nop (s : State) (p : CondPair) : computed s .nop p = s := by
  unfold computed
  rw [apply_nop, apply_nop, ite_self, ite_self]

theorem exec_rti_always (s : State) :
    exec (.rti .always false false .nop) s = Run.outcome (interruptReturn s false) := by
  rw [exec_rti (evalCond_always s) (by decide), computed_nop, if_pos]
  unfold takes allElements
  cases s.simd <;> rfl

theorem clearInterrupt_latched {s : State} {k : Nat} (hk : k < 32) (h : s.currentInterrupt = some k) (j : Nat) :
    (clearInterrupt s).latched j = (s.latched j && decide (j ≠ k)) := by
  unfold clearInterrupt
  rw [h]
  unfold State.latched
  dsimp only
  rw [setBit_getLsbD _ _ _ _ hk, setBit_getLsbD _ _ _ _ hk]
  by_cases hj : j = k
  · simp [hj]
  · simp [hj]

theorem clearInterrupt_imaskp {s : State} {k : Nat} (h : s.currentInterrupt = some k) :
    (clearInterrupt s).imaskp = setBit s.imaskp k false := by
  unfold clearInterrupt
  rw [h]

/-- What the end of an interrupt leaves alone. -/
theorem clearInterrupt_keeps (s : State) :
    (clearInterrupt s).pcStack = s.pcStack ∧ (clearInterrupt s).sts = s.sts ∧ (clearInterrupt s).mode1 = s.mode1 ∧
      (clearInterrupt s).x = s.x ∧ (clearInterrupt s).y = s.y ∧ (clearInterrupt s).mem = s.mem := by
  rcases clearInterrupt_eq s with h | ⟨k, -, h⟩
  · rw [h]
    exact ⟨rfl, rfl, rfl, rfl, rfl, rfl⟩
  · rw [h]
    exact ⟨rfl, rfl, rfl, rfl, rfl, rfl⟩

/-- Settles O31: the entry marks `k` as the current interrupt, and the return from it takes back each push. -/
theorem returnUndoesEntry : Obligations.ReturnUndoesEntry := by
  intro s t k n hk hlow ht
  obtain ⟨-, -, rfl⟩ := (takeInterrupt_eq_ok s t k n).mp ht
  have hcur : lowestBit (setBit s.imaskp k true) = some k :=
    lowestBit_eq_some (setBit_getLsbD_same hk true) fun j hj => by
      rw [setBit_getLsbD _ _ _ _ hk, if_neg (Nat.ne_of_lt hj), hlow j hj.le]
  have hmask : setBit (setBit s.imaskp k true) k false = s.imaskp := setBit_undo hk (hlow k le_rfl)
  have hany : (lowestBit (setBit s.imaskp k true)).any (pushesStatus s) = pushesStatus s k := by
    rw [hcur]
    rfl
  rw [exec_rti_always]
  cases hps : pushesStatus s k
  case false =>
    rw [interruptReturn_plain rfl false (by exact hany.trans hps), Run.outcome_ok]
    obtain ⟨hpc, hsts, hm, hx, hy, hmem⟩ := clearInterrupt_keeps _
    exact ⟨_, rfl, rfl, hpc, hsts, hm, hx, hy, (clearInterrupt_imaskp (by exact hcur)).trans hmask,
      fun j => clearInterrupt_latched hk (by exact hcur) j, hmem⟩
  case true =>
    rw [interruptReturn_status rfl false (by exact hany.trans hps) rfl, Run.outcome_ok]
    obtain ⟨hpc, hsts, hm, hx, hy, hmem⟩ := clearInterrupt_keeps _
    exact ⟨_, rfl, rfl, hpc, hsts, hm, hx, hy, (clearInterrupt_imaskp (by exact hcur)).trans hmask,
      fun j => clearInterrupt_latched hk (by exact hcur) j, hmem⟩

/-! ### The idle state (R346, R572) -/

/-- What the timer and the requests change. -/
theorem latchRequests_tickTimer_eq (s : State) :
    ∃ c ir hi : Word, latchRequests (tickTimer s) = { s with tcount := c, irptl := ir, hostIrq := hi } := by
  obtain ⟨c, w, ht⟩ := tickTimer_eq s
  obtain ⟨v, x, hl⟩ := latchRequests_eq (tickTimer s)
  rw [hl, ht]
  exact ⟨_, _, _, rfl⟩

theorem step_of_idle {s : State} (h : s.idle = true) :
    step s = Run.outcome (betweenInstructions (tick s) >>= fun u => pure { u with mode1Changed := modeChange s s u })
        := by
  unfold step
  rw [h]
  rfl

theorem modeChange_self (s : State) {u : State} (h : u.mode1 = s.mode1) : modeChange s s u = 0#32 := by
  unfold modeChange
  rw [h, BitVec.xor_self, BitVec.or_self]

/-- Settles O32: between two instructions of the idle state only the clock, the timer and the latches move. -/
theorem idleWaits : Obligations.IdleWaits := by
  intro s hi hd
  obtain ⟨c, ir, hr, hu⟩ := latchRequests_tickTimer_eq (tick s)
  dsimp only
  rw [step_of_idle hi]
  unfold betweenInstructions
  generalize latchRequests (tickTimer (tick s)) = u at hu ⊢
  have hdu : u.dbr = none := by rw [hu]; exact hd
  have hiu : u.idle = true := by rw [hu]; exact hi
  have hmu : u.mode1 = s.mode1 := by rw [hu]; rfl
  have hpu : u.pc = s.pc := by rw [hu]; rfl
  refine ⟨fun hn => ⟨?_, hiu, hpu⟩, fun k t hk ht => ?_⟩
  · have hs : sampleInterrupts u = .ok { u with irqWait := 0 } := by
      unfold sampleInterrupts
      rw [hdu, hn]
      rfl
    rw [hs, Run.ok_bind, modeChange_self s (by exact hmu)]
    rfl
  · obtain ⟨v, hv, ht⟩ := (Run.bind_eq_ok _ _ _).mp ((Run.outcome_eq_next _ _).mp ht)
    cases ht
    rcases sampleInterrupts_eq_ok hv with ⟨n, rfl⟩ | ⟨j, -, hj, htake⟩
    · exact .inl ⟨hiu, hpu⟩
    · rw [hk] at hj
      cases hj
      obtain ⟨-, -, rfl⟩ := (takeInterrupt_eq_ok _ v k u.pc).mp htake
      refine .inr ⟨rfl, ?_, ?_⟩
      · rw [hu]
        rfl
      · rw [hu]
        rfl

end Sys2Proof.Machine
end

section
/-! A compute on its own, and one that names a register twice (48_multifunction.md R530, U4). -/

-- One proof at a time: each thread that elaborates beside another reserves a gigabyte of the check's memory.
set_option Elab.async false

namespace Sys2Proof.Machine

/-! ### A compute on its own -/

/-- An instruction that is a compute alone does its compute when the result registers differ. -/
theorem exec_alone {i : Instr} (h : standsAlone i = true) (hc : (destRegs i.compute).Nodup) (s : State) :
    exec i s = .next (computed s i.compute (allElements s)) := by
  rw [exec_eq]
  unfold parts
  rw [writesOf_alone h, Run.ok_bind, commit_computeWrites s _ true s.simd hc, Run.ok_bind, tailOf_alone h,
    Run.outcome_ok]
  rfl

/-- Settles O3: each operation is a compute alone, with no, one, two or three result registers. -/
theorem computesRun : Obligations.ComputesRun := by
  intro s m n sg rn rx ry rk rs rm ra mi ai xa
  have none : ∀ {i : Instr}, standsAlone i = true → destRegs i.compute = [] →
      exec i s = .next (computed s i.compute (allElements s)) := fun h hd =>
    exec_alone h (hd ▸ List.nodup_nil) s
  have one : ∀ {i : Instr} {a : RegNum}, standsAlone i = true → destRegs i.compute = [a] →
      exec i s = .next (computed s i.compute (allElements s)) := fun h hd =>
    exec_alone h (hd ▸ List.nodup_singleton _) s
  have two : ∀ {i : Instr} {a b : RegNum}, standsAlone i = true → destRegs i.compute = [a, b] → a ≠ b →
      exec i s = .next (computed s i.compute (allElements s)) := fun h hd hab =>
    exec_alone h (hd ▸ by simp [hab]) s
  have three : ∀ {i : Instr}, standsAlone i = true → destRegs i.compute = [rm, ra, rs] → rm ≠ ra → rm ≠ rs → ra ≠ rs →
      exec i s = .next (computed s i.compute (allElements s)) := fun h hd h1 h2 h3 =>
    exec_alone h (hd ▸ by simp [h1, h2, h3]) s
  exact
    ⟨one rfl rfl, one rfl rfl, one rfl rfl, one rfl rfl, one rfl rfl, none rfl rfl, one rfl rfl, one rfl rfl,
    one rfl rfl, one rfl rfl, one rfl rfl, one rfl rfl, one rfl rfl, one rfl rfl, one rfl rfl, one rfl rfl, one
    rfl rfl, one rfl rfl, one rfl rfl, one rfl rfl, one rfl rfl, one rfl rfl, one rfl rfl, one rfl rfl, one rfl
    rfl, one rfl rfl, none rfl rfl, none rfl rfl, one rfl rfl, one rfl rfl, none rfl rfl, none rfl rfl, one rfl
    rfl, one rfl rfl, none rfl rfl, none rfl rfl, one rfl rfl, one rfl rfl, none rfl rfl, none rfl rfl, one rfl
    rfl, one rfl rfl, none rfl rfl, none rfl rfl, none rfl rfl, none rfl rfl, one rfl rfl, none rfl rfl, none
    rfl rfl, none rfl rfl, none rfl rfl, none rfl rfl, none rfl rfl, one rfl rfl, one rfl rfl, one rfl rfl, one
    rfl rfl, one rfl rfl, one rfl rfl, one rfl rfl, one rfl rfl, one rfl rfl, one rfl rfl, one rfl rfl, one rfl
    rfl, one rfl rfl, one rfl rfl, none rfl rfl, one rfl rfl, one rfl rfl, one rfl rfl, one rfl rfl, one rfl
    rfl, one rfl rfl, one rfl rfl, one rfl rfl, one rfl rfl, one rfl rfl, one rfl rfl, one rfl rfl, two rfl rfl,
    two rfl rfl, two rfl rfl, two rfl rfl, two rfl rfl, one rfl rfl, one rfl rfl, one rfl rfl, two rfl rfl, two
    rfl rfl, two rfl rfl, one rfl rfl, one rfl rfl, one rfl rfl, two rfl rfl, two rfl rfl, two rfl rfl, two rfl
    rfl, two rfl rfl, two rfl rfl, two rfl rfl, two rfl rfl, two rfl rfl, two rfl rfl, three rfl rfl, three rfl
    rfl⟩

/-! ### A register named twice (U4) -/

/-- The instruction of a compute alone stands alone with that compute. -/
theorem ofCompute_alone (c : Compute) :
    (standsAlone (.ofCompute c), (Instr.ofCompute c).compute) = (true, c) := by
  cases c
  case fix2 op rn rx ry => cases op <;> rfl
  case fix1 op rn rx => cases op <;> rfl
  case flt2 op rn rx ry => cases op <;> rfl
  case flt1 op rn rx => cases op <;> rfl
  case compFix u rx ry => cases u <;> rfl
  case shift op rn rx ry => cases op <;> rfl
  case field op rn rx ry => cases op <;> rfl
  case shift1 op rn rx => cases op <;> rfl
  case mulMr dst m rx ry => cases dst <;> rfl
  case macRn sub src m rn rx ry => cases sub <;> cases src <;> rfl
  case macMr sub acc m rx ry => cases sub <;> cases acc <;> rfl
  case satRn src m rn => cases src <;> rfl
  case satMr acc m => cases acc <;> rfl
  case rndRn src sg rn => cases src <;> rfl
  case rndMr acc sg => cases acc <;> rfl
  case clrMr acc => cases acc <;> rfl
  case putMr bank part rk => cases bank <;> cases part <;> rfl
  case getMr bank part rk => cases bank <;> cases part <;> rfl
  case mulAluFix mop aop rm ra mi ai => cases mop <;> cases aop <;> rfl
  case macAluFix sub aop ra mi ai => cases sub <;> cases aop <;> rfl
  case mulAluFlt aop rm ra mi ai => cases aop <;> rfl
  all_goals rfl

theorem commit_doubled {c : Compute} (hc : ¬ (destRegs c).Nodup) (s : State) (p : CondPair) (ws : List Write) :
    commit s (computeWrites s c p.cx p.cy ++ ws) =
      if p.cx || p.cy then refuse .doubleWrite else commit s (computeWrites s .nop p.cx p.cy ++ ws) := by
  obtain ⟨cx, cy⟩ := p
  cases hr : cx || cy
  · obtain ⟨rfl, rfl⟩ := (Bool.or_eq_false_iff ..).mp hr
    have hn : computeWrites s c false false = computeWrites s .nop false false := by
      unfold computeWrites
      split <;> rfl
    rw [hn]
    rfl
  · rw [commit_clash s c cx cy ws hc hr]
    rfl

/-- A flow instruction with a doubled compute: refused where it runs, otherwise what it does without it. -/
theorem flow_doubled {s : State} {c : Compute} (hc : ¬ (destRegs c).Nodup) {cond : Cond} {p : CondPair}
    (hp : evalCond s cond = .ok p) (els : Bool) (go : CondPair → State → Run State) :
    Run.outcome (evalCond s cond >>= fun p => commit s (elseWrites s p els c) >>= go p) =
      if (elseElements s p els).cx || (elseElements s p els).cy then .refused .doubleWrite
      else Run.outcome (evalCond s cond >>= fun p => commit s (elseWrites s p els .nop) >>= go p) := by
  have hd := commit_doubled hc s (elseElements s p els) []
  rw [List.append_nil, List.append_nil] at hd
  rw [hp, Run.ok_bind, Run.ok_bind, show commit s (elseWrites s p els c) = _ from hd]
  cases (elseElements s p els).cx || (elseElements s p els).cy <;> rfl

/-- Settles O4: the writes of a doubled compute clash wherever they are committed. -/
theorem doubledDestination : Obligations.DoubledDestination := by
  intro s c hc
  obtain ⟨ha, hcomp⟩ := Prod.mk.inj (ofCompute_alone c)
  refine ⟨?alone, fun cond p els hp => ⟨?conditional, fun g i m => ?modify,
    fun mods i m => flow_doubled hc hp els fun p t => if takes s p then jumpTo t mods (indirectTarget s i m) else pure
        t,
    fun mods rel => flow_doubled hc hp els fun p t => if takes s p then jumpTo t mods (relTarget6 s rel) else pure t,
    fun delayed i m =>
      flow_doubled hc hp els fun p t => if takes s p then callTo t delayed (indirectTarget s i m) else pure t,
    fun delayed rel => flow_doubled hc hp els fun p t => if takes s p then callTo t delayed (relTarget6 s rel) else
        pure t,
    fun delayed lr => flow_doubled hc hp els fun p t => if takes s p then returnTo t delayed lr else pure t,
    fun delayed => flow_doubled hc hp els fun p t => if takes s p then interruptReturn t delayed else pure t⟩⟩
  case alone =>
    have hd := commit_doubled hc s (allElements s) []
    rw [List.append_nil] at hd
    rw [exec_eq]
    unfold parts
    rw [writesOf_alone ha, Run.ok_bind, hcomp, show commit s (computeWrites s c true s.simd) = _ from hd]
    rfl
  case conditional =>
    have hd := commit_doubled hc s p []
    rw [List.append_nil, List.append_nil] at hd
    dsimp only
    rw [exec_ifCompute_of_evalCond hp, exec_ifCompute_of_evalCond hp, hd]
    cases p.cx || p.cy <;> rfl
  case modify =>
    have modify : ∀ d : Compute, exec (.modifyReg cond d g i m) s = Run.outcome (commit s (computeWrites s d p.cx p.cy
        ++
        if p.cx || p.cy then modifyWrites s (g.reg i) (modifier s g m) else [])) := by
      intro d
      show execModifyReg cond d g i m s = _
      unfold execModifyReg
      rw [hp]
      rfl
    dsimp only
    rw [modify, modify, commit_doubled hc]
    cases p.cx || p.cy <;> rfl

end Sys2Proof.Machine
end

section
/-! Memory read after a store (20_memory.md R103, R104), and the moves of long words (R108, log entry 20): what they
write
and where. -/

-- One proof at a time: each thread that elaborates beside another reserves a gigabyte of the check's memory.
set_option Elab.async false

namespace Sys2Proof.Machine

/-! ### Cells -/

theorem cellLanes_stored (s : State) (a : Word) (v : BusWord) (c : Word) : cellLanes (stored s a v) c = cellLanes s c :=
  cellLanes_params rfl c

/-- Settles O47: the cell stored to reads the bytes just written, every other cell its own. -/
theorem loadAfterStore : Obligations.LoadAfterStore := by
  intro s a c v hm _ _
  refine ⟨?_, fun hc => ?_⟩
  · unfold cellValue
    rw [cellLanes_stored]
    exact Memory.readCell_writeCell _ _ _ _ hm (cellLanes_le s a)
  · unfold cellValue
    rw [cellLanes_stored]
    refine Memory.readCell_congr _ _ _ _ fun lane hl => ?_
    have h8 := cellLanes_le s c
    exact Memory.read_writeCell_other _ _ _ _ _ _ hm (by omega) (cellLanes_le s a) hc

/-! ### Halves of a long word -/

theorem shiftLeft_eq_bus32 (v : BusWord) : v <<< 32 = bus32 (v.extractLsb' 0 32) := by
  unfold bus32
  ext i hi
  rw [BitVec.getElem_shiftLeft, BitVec.getElem_append]
  by_cases h : i < 32
  · simp [h]
  · simp [h, BitVec.getElem_extractLsb', BitVec.getLsbD_eq_getElem, show i - 32 < 64 by omega]

theorem extract_append_low (h l : Word) : (h ++ l).extractLsb' 0 32 = l := BitVec.extractLsb'_append_eq_right

theorem to32_append (h l : Word) : to32 (h ++ l) = h := BitVec.extractLsb'_append_eq_left

/-- A store of four bytes depends on the upper half of the value alone. -/
theorem writeCell_upper (m : Memory) (a : Word) (v : BusWord) : m.writeCell a 4 v = m.writeCell a 4 (bus32 (to32 v)) :=
    by
  have byte : ∀ l, l < 4 → busByte v l = busByte (bus32 (to32 v)) l := by
    intro l hl
    unfold busByte bus32 to32
    ext i hi
    rw [BitVec.getElem_extractLsb', BitVec.getElem_extractLsb', BitVec.getLsbD_append]
    rw [if_neg (by omega), BitVec.getLsbD_extractLsb']
    simp only [show 56 - 8 * l + i - 32 < 32 by omega, decide_true, Bool.true_and]
    congr 1
    omega
  rw [Memory.writeCell_eq, Memory.writeCell_eq]
  unfold Memory.writeLanes
  refine List.foldl_ext _ _ _ fun m l hl => ?_
  rw [byte l (List.mem_range.mp hl)]

/-- A load of four bytes has zeros below. -/
theorem readCell_lower (m : Memory) (a : Word) : (m.readCell a 4).extractLsb' 0 32 = 0#32 := by
  have low : ∀ (ls : List Nat) (acc : BusWord), (∀ l ∈ ls, l < 4) → (∀ j, j < 32 → acc.getLsbD j = false) →
      ∀ j, j < 32 →
        (ls.foldl (fun v lane => v ||| busOfByte (m.read (cellKey a lane)) lane) acc).getLsbD j = false := by
    intro ls
    induction ls with
    | nil => exact fun _ _ h => h
    | cons l ls ih =>
      intro acc hls hacc
      refine ih _ (fun k hk => hls k (List.mem_cons_of_mem _ hk)) fun j hj => ?_
      have hl : l < 4 := hls l List.mem_cons_self
      rw [BitVec.getLsbD_or, hacc j hj]
      unfold busOfByte
      rw [BitVec.getLsbD_shiftLeft]
      simp [show j < 56 - 8 * l by omega]
  refine BitVec.eq_of_getLsbD_eq fun j hj => ?_
  have hz : (m.readCell a 4).getLsbD j = false :=
    low (List.range 4) 0#64 (fun l hl => List.mem_range.mp hl) (fun _ _ => by simp) j hj
  rw [BitVec.getLsbD_extractLsb', Nat.zero_add, hz]
  simp

/-- The halves of a long word loaded from two cells. -/
theorem pair_halves {x y : BusWord} (hx : x.extractLsb' 0 32 = 0#32) :
    (x ||| y >>> 32).extractLsb' 0 32 = to32 y ∧ to32 (x ||| y >>> 32) = to32 x := by
  refine ⟨BitVec.eq_of_getLsbD_eq fun j hj => ?_, BitVec.eq_of_getLsbD_eq fun j hj => ?_⟩
  · have hj0 := congrArg (fun w => BitVec.getLsbD w j) hx
    simp only [BitVec.getLsbD_extractLsb', hj, decide_true, Bool.true_and, Nat.zero_add, BitVec.getLsbD_zero] at hj0
    unfold to32
    simp [hj, hj0]
  · unfold to32
    rw [BitVec.getLsbD_extractLsb', BitVec.getLsbD_extractLsb', BitVec.getLsbD_or, BitVec.getLsbD_ushiftRight,
      BitVec.getLsbD_of_ge y (32 + (32 + j)) (by omega), Bool.or_false]

/-! ### The pair of a register -/

/-- The registers of a pair always read and take every value. -/
theorem neighbours_plain {u lo hi : UReg} (h : neighbours u = some (lo, hi)) (s : State) :
    (∀ v, s.writeRefusal lo v = none) ∧ (∀ v, s.writeRefusal hi v = none) ∧ (∃ v, s.readUReg lo = .ok v) ∧
      ∃ v, s.readUReg hi = .ok v := by
  cases u <;> simp only [neighbours, Option.some.injEq, Prod.mk.injEq, reduceCtorEq] at h
  case sys q =>
    cases q <;> simp only [Option.some.injEq, Prod.mk.injEq, reduceCtorEq] at h <;>
      (obtain ⟨rfl, rfl⟩ := h; exact ⟨fun _ => rfl, fun _ => rfl, ⟨_, rfl⟩, ⟨_, rfl⟩⟩)
  all_goals
    obtain ⟨rfl, rfl⟩ := h
    exact ⟨fun _ => rfl, fun _ => rfl, ⟨_, rfl⟩, ⟨_, rfl⟩⟩

theorem evenOf_ne_oddOf (n : RegNum) : evenOf n ≠ oddOf n := by
  intro h
  have := congrArg Fin.val h
  simp only [evenOf, oddOf] at this
  omega

/-- The two registers of a pair are two places. -/
theorem neighbours_places {u lo hi : UReg} (h : neighbours u = some (lo, hi)) :
    (regPlaces lo ++ regPlaces hi).Nodup := by
  cases u <;> simp only [neighbours, Option.some.injEq, Prod.mk.injEq, reduceCtorEq] at h
  case sys q =>
    cases q <;> simp only [Option.some.injEq, Prod.mk.injEq, reduceCtorEq] at h <;>
      (obtain ⟨rfl, rfl⟩ := h; decide)
  all_goals
    obtain ⟨rfl, rfl⟩ := h
    simp [regPlaces, evenOf_ne_oddOf]

theorem evenAddr_ne_oddAddr (a : Word) : evenAddr a ≠ oddAddr a := by
  intro h
  have := congrArg (fun w => BitVec.getLsbD w 0) h
  simp [evenAddr, oddAddr] at this

theorem pairPlaces_nodup (s : State) (store : Bool) (a : Word) (u : UReg) (p : CondPair) :
    (pairPlaces s store a u p).Nodup := by
  unfold pairPlaces
  cases hn : neighbours u with
  | none => exact List.nodup_nil
  | some q =>
    obtain ⟨lo, hi⟩ := q
    dsimp only
    split
    · cases store
      · exact neighbours_places hn
      · rw [if_pos rfl]
        unfold pairCells
        split
        · simp
        · simp [evenAddr_ne_oddAddr]
    · exact List.nodup_nil

/-! ### What a long word access writes -/

/-- The writes of a store of the long word of two registers. -/
def pairStoreWrites (s : State) (a : Word) (lo hi : UReg) : List Write :=
  let v := to32 (valueOf s hi) ++ to32 (valueOf s lo)
  if s.region a = .long then [.cell a 8 v] else [.cell (evenAddr a) 4 (v <<< 32), .cell (oddAddr a) 4 v]

/-- The value of a load of a long word. -/
def pairLoadValue (s : State) (a : Word) : BusWord :=
  if s.region a = .long then s.mem.readCell a 8
  else s.mem.readCell (oddAddr a) 4 ||| s.mem.readCell (evenAddr a) 4 >>> 32

/-- The writes of a load of the long word of two registers. -/
def pairLoadWrites (s : State) (a : Word) (lo hi : UReg) : List Write :=
  [.reg lo (pairLoadValue s a <<< 32), .reg hi (bus32 (to32 (pairLoadValue s a)))]

section
variable {s : State} {lw : Bool} {a : Word} {u : UReg} {p : CondPair} {lo hi : UReg}

theorem isLong_of_reached (h : pairReached s lw a) : isLong s lw a = true := by
  unfold isLong
  rcases h with h | ⟨rfl, -⟩
  · simp [h]
  · rfl

theorem storeReg_pair (hl : s.params.longWord = .neighbourPair) (hn : neighbours u = some (lo, hi))
    (hpx : u = .px → s.params.px ≠ .absent) (hr : pairReached s lw a) :
    storeReg s lw a u = .ok (pairStoreWrites s a lo hi) := by
  obtain ⟨-, -, ⟨l, hlo⟩, ⟨h, hhi⟩⟩ := neighbours_plain hn s
  rw [storeReg_eq_ok, isLong_of_reached hr, if_pos rfl, storePair_eq_ok]
  refine ⟨by simpa [pxRefused] using hpx, hl, lo, hi, l, h, hn, hlo, hhi, ?_⟩
  rw [storeLong_eq_ok]
  unfold pairStoreWrites
  rw [valueOf_eq hlo, valueOf_eq hhi]
  by_cases hlong : s.region a = .long
  · exact .inr (.inl ⟨hlong, if_pos hlong⟩)
  · obtain ⟨-, h32, he, ho⟩ := hr.resolve_left hlong
    exact .inr (.inr ⟨h32, he, ho, if_neg hlong⟩)

theorem loadReg_pair (hl : s.params.longWord = .neighbourPair) (hn : neighbours u = some (lo, hi))
    (hpx : u = .px → s.params.px ≠ .absent) (hr : pairReached s lw a) :
    loadReg s lw a u = .ok (pairLoadWrites s a lo hi) := by
  obtain ⟨hwlo, hwhi, -, -⟩ := neighbours_plain hn s
  rw [loadReg_eq_ok, isLong_of_reached hr, if_pos rfl, loadPair_eq_ok]
  refine ⟨by simpa [pxRefused] using hpx, hl, lo, hi, pairLoadValue s a, hn, ?_, hwlo _, hwhi _, rfl⟩
  rw [loadLong_eq_ok]
  unfold pairLoadValue
  by_cases hlong : s.region a = .long
  · exact .inr (.inl ⟨hlong, if_pos hlong⟩)
  · obtain ⟨-, h32, he, ho⟩ := hr.resolve_left hlong
    exact .inr (.inr ⟨h32, he, ho, if_neg hlong⟩)

theorem foldl_pairStoreWrites (s t : State) (a : Word) (lo hi : UReg) :
    (pairStoreWrites s a lo hi).foldl Write.apply t = pairStored s t a lo hi := by
  unfold pairStoreWrites pairStored pairCells
  by_cases hlong : s.region a = .long
  · simp only [if_pos hlong]
    rfl
  · simp only [if_neg hlong]
    rw [shiftLeft_eq_bus32, extract_append_low]
    simp only [List.foldl_cons, List.foldl_nil, Write.apply]
    rw [writeCell_upper _ (oddAddr a), to32_append]

theorem foldl_pairLoadWrites (s t : State) (a : Word) (lo hi : UReg) :
    (pairLoadWrites s a lo hi).foldl Write.apply t = pairLoaded s t a lo hi := by
  unfold pairLoadWrites pairLoaded pairLoadValue
  rw [shiftLeft_eq_bus32]
  by_cases hlong : s.region a = .long
  · simp only [if_pos hlong]
    rfl
  · simp only [if_neg hlong]
    obtain ⟨h1, h2⟩ := pair_halves (y := s.mem.readCell (evenAddr a) 4) (readCell_lower s.mem (oddAddr a))
    rw [h1, h2]
    rfl

theorem places_pairStoreWrites (s : State) (a : Word) (lo hi : UReg) :
    (pairStoreWrites s a lo hi).flatMap Write.places = (pairCells s a).map .cell := by
  unfold pairStoreWrites pairCells
  by_cases hlong : s.region a = .long
  · simp only [if_pos hlong]
    rfl
  · simp only [if_neg hlong]
    rfl

/-- The move of a long word answers writes that leave `pairMoved`. -/
theorem xfer_pair {store : Bool} (h : pairMovable s lw a u p) (k : Option RegNum) :
    ∃ ws, xfer s lw a u store p.cx p.cy k = .ok ws ∧
      (∀ t : State, ws.foldl Write.apply t = pairMoved s t store a u p) ∧
      ws.flatMap Write.places = pairPlaces s store a u p := by
  obtain ⟨hl, hn, hpx, hr, hs⟩ := h
  obtain ⟨⟨lo, hi⟩, hn⟩ := Option.ne_none_iff_exists'.mp hn
  have honce : madeOnce s lw a u = true := by
    unfold madeOnce
    rw [isLong_of_reached hr]
    rfl
  have hsame : (s.simd && p.cx != p.cy) = false := by
    cases hsd : s.simd
    · rfl
    · simp [hs hsd]
  unfold xfer pairMoved pairPlaces
  rw [if_pos honce, hsame, if_neg Bool.false_ne_true, hn]
  dsimp only
  cases p.cx
  · exact ⟨[], rfl, fun _ => rfl, rfl⟩
  · cases store
    · exact ⟨_, loadReg_pair hl hn hpx hr, fun t => foldl_pairLoadWrites s t a lo hi, by
        unfold pairLoadWrites
        simp [Write.places]⟩
    · exact ⟨_, storeReg_pair hl hn hpx hr, fun t => foldl_pairStoreWrites s t a lo hi, places_pairStoreWrites s a lo
          hi⟩

end

/-- The move of a register without (LW), of normal words or of a long word as the location is. -/
theorem xfer_part {s : State} {store : Bool} {a : Word} {u : UReg} {p : CondPair} {k : Option RegNum}
    (h : partMovable s store (k.any (broadcast s)) a u p) (hs : s.simd = false → p.cy = false) :
    ∃ ws, xfer s false a u store p.cx p.cy k = .ok ws ∧
      (∀ t : State, t.params = s.params →
        ws.foldl Write.apply t = partMoved s t store (k.any (broadcast s)) a u p) ∧
      ws.flatMap Write.places = partPlaces s store (k.any (broadcast s)) a u p := by
  by_cases hlong : s.region a = .long
  · rw [partMovable_of_long hlong] at h
    obtain ⟨ws, hx, hw, hp⟩ := xfer_pair (store := store) h k
    refine ⟨ws, hx, fun t _ => ?_, ?_⟩
    · rw [hw, partMoved_of_long hlong]
    · rw [hp, partPlaces_of_long hlong]
  · rw [partMovable_of_not_long hlong] at h
    obtain ⟨ws, hx, hw, hp⟩ := xfer_ok h hs
    refine ⟨ws, hx, fun t ht => ?_, ?_⟩
    · rw [hw t ht, partMoved_of_not_long hlong]
    · rw [hp, partPlaces_of_not_long hlong]

end Sys2Proof.Machine
end

section
/-! The instructions with moves (40_compute_move.md Types 1 to 6, 41_program_flow.md Type 10, 42_immediate_move.md):
what the
writes of the compute, the moves and the post-modifies leave together, or that two of them clash. -/

-- One proof at a time: each thread that elaborates beside another reserves a gigabyte of the check's memory.
set_option Elab.async false

namespace Sys2Proof.Machine

/-! ### Commits with moves -/

/-- All writes of an instruction, or the refusal of two to one place. -/
theorem commit_eq_ite (s : State) (ws : List Write) :
    commit s ws = if (ws.flatMap Write.places).Nodup then .ok (ws.foldl Write.apply s) else refuse .doubleWrite := rfl

/-- The writes `ws` write the places `places` and take a state to `after` of it. -/
def Leaves (s : State) (ws : List Write) (after : State → State) (places : List Place) : Prop :=
  (∀ t : State, t.params = s.params → ws.foldl Write.apply t = after t) ∧ ws.flatMap Write.places = places

theorem Leaves.append {s : State} {ws ws' : List Write} {f g : State → State} {ps ps' : List Place}
    (h : Leaves s ws f ps) (h' : Leaves s ws' g ps') : Leaves s (ws ++ ws') (fun t => g (f t)) (ps ++ ps') := by
  refine ⟨fun t ht => ?_, ?_⟩
  · have hp : (ws.foldl Write.apply t).params = s.params := (foldl_sameCore t ws).1.trans ht
    rw [List.foldl_append, h'.1 _ hp, h.1 t ht]
  · rw [List.flatMap_append, h.2, h'.2]

theorem Leaves.postmod (s : State) (go : Bool) (k : RegNum) (m : Word) :
    Leaves s (postmodWrites s go k m) (fun t => postModified s t go k m) (postPlaces s go k m) :=
  ⟨fun t _ => foldl_postmodWrites s t go k m, rfl⟩

theorem Leaves.commit {s : State} {ws : List Write} {f : State → State} {ps : List Place} (h : Leaves s ws f ps)
    (c : Compute) (p : CondPair) :
    Machine.commit s (computeWrites s c p.cx p.cy ++ ws) =
      if (computePlaces s c p ++ ps).Nodup then .ok (f (computed s c p)) else refuse .doubleWrite := by
  rw [commit_eq_ite, List.flatMap_append, List.foldl_append, foldl_computeWrites, h.1 _ (computed_params s c _), h.2]
  rfl

theorem Leaves.commit_shift {s : State} {ws : List Write} {f : State → State} {ps : List Place}
    (h : Leaves s ws f ps) (sh : ShiftImm) (p : CondPair) :
    Machine.commit s (shiftImmWrites s sh p.cx p.cy ++ ws) =
      if (shiftPlaces s sh p ++ ps).Nodup then .ok (f (shifted s sh p)) else refuse .doubleWrite := by
  rw [commit_eq_ite, List.flatMap_append, List.foldl_append, foldl_shiftImmWrites, h.1 _ (shifted_params s sh _), h.2]
  rfl

/-- The outcome of a commit, by its places. -/
theorem outcome_ite {c : Prop} [Decidable c] {r : Run State} {t : State}
    (h : r = if c then .ok t else refuse .doubleWrite) :
    (c → Run.outcome r = .next t) ∧ (¬ c → Run.outcome r = .refused .doubleWrite) := by
  refine ⟨fun hc => ?_, fun hc => ?_⟩
  · rw [h, if_pos hc]
    rfl
  · rw [h, if_neg hc]
    rfl

theorem xfer_part_leaves {s : State} {store : Bool} {a : Word} {u : UReg} {p : CondPair} {k : RegNum}
    (h : partMovable s store (broadcast s k) a u p) (hs : s.simd = false → p.cy = false) :
    ∃ ws, xfer s false a u store p.cx p.cy (some k) = .ok ws ∧
      Leaves s ws (fun t => partMoved s t store (broadcast s k) a u p) (partPlaces s store (broadcast s k) a u p) := by
  obtain ⟨ws, hx, hw, hp⟩ := xfer_part (k := some k) h hs
  exact ⟨ws, hx, hw, hp⟩

/-! ### Types 3, 4 and 6a -/

section
variable {s : State} {cond : Cond} {p : CondPair} (hp : evalCond s cond = .ok p)
include hp

theorem exec_uregMove (c : Compute) {g : Dag} (post : Bool) (i m : Fin 8) (store long : Bool) {u : UReg}
    (hd : sameDag g u = false) :
    exec (.uregMove cond c g post i m store long u) s = Run.outcome
      (xfer s long (indexAddr s post (g.reg i) s.m[g.reg m]) u store p.cx p.cy (some (g.reg i)) >>= fun w =>
        commit s (computeWrites s c p.cx p.cy ++ w ++ postmodWrites s (post && (p.cx || p.cy)) (g.reg i) s.m[g.reg m]))
            := by
  show execUregMove cond c g post i m store long u s = _
  unfold execUregMove
  rw [hd, if_neg Bool.false_ne_true, hp]
  rfl

theorem exec_dregMoveImm (c : Compute) (g : Dag) (post : Bool) (i : Fin 8) (data : BitVec 6) (store : Bool)
    (reg : RegNum) :
    exec (.dregMoveImm cond c g post i data store reg) s = Run.outcome
      (xfer s false (indexAddr s post (g.reg i) (data.signExtend 32)) (.r reg) store p.cx p.cy (some (g.reg i)) >>=
        fun w => commit s (computeWrites s c p.cx p.cy ++ w ++
          postmodWrites s (post && (p.cx || p.cy)) (g.reg i) (data.signExtend 32))) := by
  show execDregMoveImm cond c g post i data store reg s = _
  unfold execDregMoveImm
  rw [hp]
  rfl

theorem exec_shiftImmMove (sh : ShiftImm) (g : Dag) (mv : DregMove) :
    exec (.shiftImmMove cond sh g mv) s = Run.outcome
      (xfer s false s.i[g.reg mv.i] (.r mv.reg) mv.store p.cx p.cy (some (g.reg mv.i)) >>= fun w =>
        commit s (shiftImmWrites s sh p.cx p.cy ++ w ++ postmodWrites s (p.cx || p.cy) (g.reg mv.i) s.m[g.reg mv.m]))
            := by
  show execShiftImmMove cond sh g mv s = _
  unfold execShiftImmMove
  rw [hp]
  rfl

end

/-- A compute, a move and a post-modify: what they leave, or their clash. -/
theorem commit_part {s : State} {store : Bool} {a : Word} {u : UReg} {p : CondPair} {k : RegNum}
    (h : partMovable s store (broadcast s k) a u p) (hs : s.simd = false → p.cy = false) (c : Compute) (go : Bool)
    (mm : Word) :
    (xfer s false a u store p.cx p.cy (some k) >>= fun w =>
      commit s (computeWrites s c p.cx p.cy ++ w ++ postmodWrites s go k mm)) =
      if (computePlaces s c p ++ partPlaces s store (broadcast s k) a u p ++ postPlaces s go k mm).Nodup then
        .ok (postModified s (partMoved s (computed s c p) store (broadcast s k) a u p) go k mm)
      else refuse .doubleWrite := by
  obtain ⟨ws, hx, hw⟩ := xfer_part_leaves h hs
  rw [hx, Run.ok_bind, List.append_assoc, List.append_assoc]
  exact (hw.append (.postmod s go k mm)).commit c p

theorem commit_shift_part {s : State} {store : Bool} {a : Word} {u : UReg} {p : CondPair} {k : RegNum}
    (h : partMovable s store (broadcast s k) a u p) (hs : s.simd = false → p.cy = false) (sh : ShiftImm) (go : Bool)
    (mm : Word) :
    (xfer s false a u store p.cx p.cy (some k) >>= fun w =>
      commit s (shiftImmWrites s sh p.cx p.cy ++ w ++ postmodWrites s go k mm)) =
      if (shiftPlaces s sh p ++ partPlaces s store (broadcast s k) a u p ++ postPlaces s go k mm).Nodup then
        .ok (postModified s (partMoved s (shifted s sh p) store (broadcast s k) a u p) go k mm)
      else refuse .doubleWrite := by
  obtain ⟨ws, hx, hw⟩ := xfer_part_leaves h hs
  rw [hx, Run.ok_bind, List.append_assoc, List.append_assoc]
  exact (hw.append (.postmod s go k mm)).commit_shift sh p

/-- Settles O42: the three types are one commit, of a compute or an immediate shift, a move and a post-modify. -/
theorem indexedMoves : Obligations.IndexedMoves := by
  intro s cond c sh g post store i m data reg u p hp
  have hs : s.simd = false → p.cy = false := evalCond_sisd hp
  refine ⟨fun hd hm => ?_, fun hm => ?_, fun hm => ?_⟩
  · rw [exec_uregMove hp c post i m store false hd]
    exact outcome_ite (commit_part hm hs c _ _)
  · rw [exec_dregMoveImm hp]
    exact outcome_ite (commit_part hm hs c _ _)
  · rw [exec_shiftImmMove hp]
    exact outcome_ite (commit_shift_part hm hs sh _ _)

/-! ### Type 1 -/

theorem exec_dualMove (s : State) (c : Compute) (dm pm : DregMove) :
    exec (.dualMove c dm pm) s = Run.outcome
      (xfer s false s.i[Dag.dm.reg dm.i] (.r dm.reg) dm.store true s.simd (some (Dag.dm.reg dm.i)) >>= fun wd =>
        xfer s false s.i[Dag.pm.reg pm.i] (.r pm.reg) pm.store true s.simd (some (Dag.pm.reg pm.i)) >>= fun wp =>
          commit s (computeWrites s c true s.simd ++ wd ++ wp ++
            postmodWrites s true (Dag.dm.reg dm.i) s.m[Dag.dm.reg dm.m] ++
            postmodWrites s true (Dag.pm.reg pm.i) s.m[Dag.pm.reg pm.m])) := rfl

/-- A store to a device in SISD mode. -/
theorem xfer_device {s : State} (hs : s.simd = false) {a : Word} (ha : s.region a = .device) (n : RegNum)
    (k : Option RegNum) : xfer s false a (.r n) true true s.simd k = .ok [.device a] := by
  have hl : isLong s false a = false := by simp [isLong, ha]
  have hst : storeReg s false a (.r n) = .ok [.device a] := by
    rw [storeReg_eq_ok, hl]
    exact ⟨by simp [pxRefused], _, rfl, (storeCell_eq_ok ..).mpr (.inl ⟨ha, rfl⟩)⟩
  unfold xfer madeOnce
  rw [hl, hs]
  simp only [hasComplement, Bool.not_true, Bool.or_self, Bool.false_eq_true, if_false, if_true, onlyIf_true,
    onlyIf_false, hst, Run.ok_bind, List.append_nil]
  rfl

/-- Settles O41: the writes of both moves and both post-modifies are committed with the compute; two stores to one
device
address clash. -/
theorem dualMove : Obligations.DualMove := by
  intro s c dm pm
  refine ⟨fun hs hd hp ha hr => ?device, fun hm hm' => ?moves⟩
  case device =>
    rw [exec_dualMove, hd, hp, xfer_device hs hr, Run.ok_bind, xfer_device hs (ha ▸ hr), Run.ok_bind, commit_eq_ite,
      if_neg]
    · rfl
    · intro hn
      simp only [List.flatMap_append] at hn
      have hn := List.nodup_append.mp (List.nodup_append.mp (List.nodup_append.mp hn).1).1
      exact hn.2.2 (.cell s.i[Dag.dm.reg dm.i]) (List.mem_append_right _ (by simp [Write.places]))
        (.cell s.i[Dag.dm.reg dm.i]) (by rw [ha]; simp [Write.places]) rfl
  case moves =>
    rw [exec_dualMove]
    have hs : s.simd = false → (allElements s).cy = false := id
    obtain ⟨wd, hd, hwd⟩ := xfer_part_leaves hm hs
    obtain ⟨wp, hp, hwp⟩ := xfer_part_leaves hm' hs
    have hcom := (((hwd.append hwp).append (.postmod s true (Dag.dm.reg dm.i) s.m[Dag.dm.reg dm.m])).append
      (.postmod s true (Dag.pm.reg pm.i) s.m[Dag.pm.reg pm.m])).commit c (allElements s)
    refine outcome_ite ?_
    rw [show xfer s false s.i[Dag.dm.reg dm.i] (.r dm.reg) dm.store true s.simd (some (Dag.dm.reg dm.i)) = .ok wd from
        hd,
      Run.ok_bind,
      show xfer s false s.i[Dag.pm.reg pm.i] (.r pm.reg) pm.store true s.simd (some (Dag.pm.reg pm.i)) = .ok wp from hp,
      Run.ok_bind]
    simp only [List.append_assoc] at hcom ⊢
    exact hcom

/-! ### Type 10 -/

/-- The state with the branch of a taken Type 10 asked for. -/
def branchedIf (go : Bool) (target : ProgAddr) (t : State) : State :=
  if go then requestBranch t target false false else t

/-- Type 10 with its condition read: the move on the elements where it is false, then the branch if it is taken. -/
theorem jumpElseMove_eq {s : State} {p : CondPair} {mv : DregMove}
    (h : partMovable s mv.store (broadcast s (Dag.dm.reg mv.i)) s.i[Dag.dm.reg mv.i] (.r mv.reg) ⟨!p.cx, s.simd &&
        !p.cy⟩)
    (target : ProgAddr) (c : Compute) :
    jumpElseMove s p target c mv =
      if (computePlaces s c ⟨!p.cx, s.simd && !p.cy⟩ ++ partPlaces s mv.store (broadcast s (Dag.dm.reg mv.i))
          s.i[Dag.dm.reg mv.i] (.r mv.reg) ⟨!p.cx, s.simd && !p.cy⟩ ++
          postPlaces s (!p.cx || s.simd && !p.cy) (Dag.dm.reg mv.i) s.m[Dag.dm.reg mv.m]).Nodup then
        .ok (branchedIf (takes s p) target
          (postModified s (partMoved s (computed s c ⟨!p.cx, s.simd && !p.cy⟩) mv.store
            (broadcast s (Dag.dm.reg mv.i)) s.i[Dag.dm.reg mv.i] (.r mv.reg) ⟨!p.cx, s.simd && !p.cy⟩)
            (!p.cx || s.simd && !p.cy) (Dag.dm.reg mv.i) s.m[Dag.dm.reg mv.m]))
      else refuse .doubleWrite := by
  obtain ⟨ws, hx, hw⟩ := xfer_part_leaves h fun hs => by simp [hs]
  have hcom := (hw.append (.postmod s (!p.cx || s.simd && !p.cy) (Dag.dm.reg mv.i) s.m[Dag.dm.reg mv.m])).commit c
    ⟨!p.cx, s.simd && !p.cy⟩
  rw [← List.append_assoc, ← List.append_assoc] at hcom
  unfold jumpElseMove
  dsimp only at hx hcom ⊢
  rw [hx, Run.ok_bind, show modifier s .dm mv.m = s.m[Dag.dm.reg mv.m] from rfl, hcom]
  split <;> rfl

theorem exec_jumpIndElse {s : State} {cond : Cond} {p : CondPair} (hp : evalCond s cond = .ok p) (i m : Fin 8)
    (c : Compute) (mv : DregMove) : exec (.jumpIndElse cond i m c mv) s =
      Run.outcome (jumpElseMove s p ((s.i[Dag.pm.reg i] + s.m[Dag.pm.reg m]).extractLsb' 0 24) c mv) := by
  show execJumpIndElse cond i m c mv s = _
  unfold execJumpIndElse
  rw [hp]
  rfl

theorem exec_jumpRelElse {s : State} {cond : Cond} {p : CondPair} (hp : evalCond s cond = .ok p) (rel6 : BitVec 6)
    (c : Compute) (mv : DregMove) : exec (.jumpRelElse cond rel6 c mv) s =
      Run.outcome (jumpElseMove s p (s.pc + rel6.signExtend 24) c mv) := by
  show execJumpRelElse cond rel6 c mv s = _
  unfold execJumpRelElse
  rw [hp]
  rfl

/-- Settles O51: the move is made on the elements where the condition is false, then the branch is asked for. -/
theorem jumpOrMove : Obligations.JumpOrMove := by
  intro s cond i m rel6 c mv p hp q k hm
  rw [exec_jumpIndElse hp, exec_jumpRelElse hp]
  obtain ⟨hi, hi'⟩ := outcome_ite (jumpElseMove_eq hm ((s.i[Dag.pm.reg i] + s.m[Dag.pm.reg m]).extractLsb' 0 24) c)
  obtain ⟨hr, hr'⟩ := outcome_ite (jumpElseMove_eq hm (s.pc + rel6.signExtend 24) c)
  exact ⟨fun hn => ⟨hi hn, hr hn⟩, fun hn => ⟨hi' hn, hr' hn⟩⟩

/-! ### Types 14 to 17 -/

theorem directMove_normal {s : State} {store : Bool} {u : UReg} {a : Word}
    (h : movableBoth s store false a u (allElements s)) :
    directMove s false store u a = .ok (movedBoth s s store false a u (allElements s)) := by
  obtain ⟨ws, hx, hw⟩ := xfer_ok (k := none) h id
  unfold directMove
  rw [show xfer s false a u store true s.simd none = .ok ws from hx, Run.ok_bind]
  exact commit_only_move hw

theorem indexedMove_normal {s : State} {g : Dag} {i : Fin 8} {store : Bool} {u : UReg} {a : Word}
    (hd : sameDag g u = false)
    (h : movableBoth s store (broadcast s (g.reg i)) (s.i[g.reg i] + a) u (allElements s)) :
    indexedMove s g i false store u a =
      .ok (movedBoth s s store (broadcast s (g.reg i)) (s.i[g.reg i] + a) u (allElements s)) := by
  obtain ⟨ws, hx, hw⟩ := xfer_ok (k := some (g.reg i)) h id
  unfold indexedMove
  rw [hd, if_neg Bool.false_ne_true]
  dsimp only
  rw [show xfer s false (s.i[g.reg i] + a) u store true s.simd (some (g.reg i)) = .ok ws from hx, Run.ok_bind]
  exact commit_only_move hw

theorem storeCell_plain {s : State} {a : Word} (h : plainCell s a) (v : BusWord) :
    storeCell s a false v = .ok [.cell a (cellLanes s a) v] :=
  (storeCell_eq_ok s a false v _).mpr (.inr ⟨.inl h, rfl⟩)

theorem leaves_cell (s : State) (a : Word) (v : BusWord) :
    Leaves s [.cell a (cellLanes s a) v] (fun t => stored t a v) [.cell a] := by
  refine ⟨fun t ht => ?_, rfl⟩
  simp only [List.foldl_cons, List.foldl_nil, Write.apply, stored, cellLanes_params ht]

theorem commit_leaves {s : State} {ws : List Write} {f : State → State} {ps : List Place} (h : Leaves s ws f ps)
    (hn : ps.Nodup) : commit s ws = .ok (f s) := by
  rw [commit_of_nodup _ _ (by rwa [h.2]), h.1 s rfl]

theorem postPlaces_nodup_append {s : State} {k : RegNum} {m : Word} {cells : List Word} (h : cells.Nodup) :
    (cells.map Place.cell ++ postPlaces s true k m).Nodup := by
  refine (h.map fun a c hac => Place.cell.inj hac).append ?_ ?_
  · exact indexWrites_nodup _ _ _
  · intro q hq hq'
    obtain ⟨a, -, rfl⟩ := List.mem_map.mp hq
    unfold postPlaces postmodWrites indexWrites indexWrite at hq'
    rw [if_pos rfl] at hq'
    cases cbufen s.mode1 && wraps s k m <;> simp [Write.places, regPlaces] at hq'

theorem execStoreImm_eq {s : State} {g : Dag} {i : Fin 8} (m : Fin 8) (data : Word) (h : plainCell s s.i[g.reg i])
    (h' : s.simd = true → plainCell s (s.i[g.reg i] + 1#32)) :
    execStoreImm g i m data s = .next (postModified s
      (if s.simd then stored (stored s s.i[g.reg i] (bus32 data)) (s.i[g.reg i] + 1#32) (bus32 data)
        else stored s s.i[g.reg i] (bus32 data)) true (g.reg i) s.m[g.reg m]) := by
  unfold execStoreImm
  dsimp only
  rw [storeCell_plain h, Run.ok_bind]
  have hpost := Leaves.postmod s true (g.reg i) s.m[g.reg m]
  cases hs : s.simd
  · rw [onlyIf_false, Run.ok_bind, List.append_nil]
    exact congrArg Run.outcome (commit_leaves ((leaves_cell s _ _).append hpost)
      (postPlaces_nodup_append (List.nodup_singleton _)))
  · rw [onlyIf_true, storeCell_plain (h' hs), Run.ok_bind]
    have hne : s.i[g.reg i] ≠ s.i[g.reg i] + 1#32 := by intro h; simp at h
    exact congrArg Run.outcome (commit_leaves (((leaves_cell s _ _).append (leaves_cell s _ _)).append hpost)
      (postPlaces_nodup_append (cells := [_, _]) (by simp)))

theorem execLoadImm_eq {s : State} {u : UReg} {data : Word} (hu : u ≠ .px) (hw : s.writeRefusal u (bus32 data) = none)
    (hc : s.simd = true → hasComplement u = true → s.writeRefusal (complement u) (bus32 data) = none) :
    execLoadImm u data s = .next (if s.simd && hasComplement u then
        (s.writeUReg u (bus32 data)).writeUReg (complement u) (bus32 data)
      else s.writeUReg u (bus32 data)) := by
  unfold execLoadImm
  rw [if_neg hu, regWrite_ok hw, Run.ok_bind]
  cases hs : s.simd && hasComplement u
  · rw [onlyIf_false, Run.ok_bind, List.append_nil, commit_reg]
    rfl
  · simp only [Bool.and_eq_true] at hs
    rw [onlyIf_true, regWrite_ok (hc hs.1 hs.2), Run.ok_bind]
    exact congrArg Run.outcome (commit_complement hs.2 s _ _)

/-- Settles O44: each move alone is its `movedBoth`, and the immediate forms are one store and one load. -/
theorem immediateMoves : Obligations.ImmediateMoves := by
  intro s g i m u a data
  refine ⟨fun h => congrArg Run.outcome (directMove_normal h), fun h => congrArg Run.outcome (directMove_normal h),
    fun hd h => congrArg Run.outcome (indexedMove_normal hd h), fun hd h => congrArg Run.outcome (indexedMove_normal hd
        h),
    fun h h' => execStoreImm_eq m data h h', fun hu hw hc => execLoadImm_eq hu hw hc, rfl, fun hu => ?_⟩
  simp only [List.mem_cons, List.not_mem_nil, or_false] at hu
  rcases hu with rfl | rfl | rfl
  all_goals rfl

end Sys2Proof.Machine
end

section
/-! Register to register moves (40_compute_move.md R226, R227) and the moves of long words (20_memory.md R108, log entry
20). -/

-- One proof at a time: each thread that elaborates beside another reserves a gigabyte of the check's memory.
set_option Elab.async false

namespace Sys2Proof.Machine

/-! ### Type 5 -/

theorem moveReg_ok {s : State} {dst src : UReg} (hpx : s.params.px = .absent → dst ≠ src → dst ≠ .px ∧ src ≠ .px)
    (hr : ∃ v, s.readUReg src = .ok v) (hw : s.writeRefusal dst (valueOf s src) = none) :
    moveReg s dst src = .ok [.reg dst (valueOf s src)] := by
  obtain ⟨v, hv⟩ := hr
  rw [valueOf_eq hv] at hw ⊢
  refine (moveReg_eq_ok ..).mpr ⟨fun ⟨ha, hor, hne⟩ => ?_, v, hv, hw, rfl⟩
  obtain ⟨h1, h2⟩ := hpx ha hne
  exact hor.elim h1 h2

theorem complement_eq_px {u : UReg} (h : complement u = .px) : u = .px := by
  cases u <;> first | rfl | cases h

/-- The writes of one register, when `go`. -/
def regWhen (go : Bool) (u : UReg) (v : BusWord) : List Write := if go then [.reg u v] else []

theorem leaves_regWhen (s : State) (go : Bool) (u : UReg) (v : BusWord) :
    Leaves s (regWhen go u v) (fun t => if go then t.writeUReg u v else t) (if go then regPlaces u else []) := by
  cases go
  · exact ⟨fun _ _ => rfl, rfl⟩
  · exact ⟨fun _ _ => rfl, List.append_nil _⟩

theorem onlyIf_regWhen {go : Bool} {u : UReg} {v : BusWord} {r : Run (List Write)} (h : go = true → r = .ok [.reg u v])
    :
    onlyIf go r = .ok (regWhen go u v) := by
  cases go
  · rfl
  · exact h rfl

/-- The move of Type 5a: the X part where it runs, and of a register with a complement the Y part. -/
theorem uregTransfer_ok {s : State} {p : CondPair} {dst src : UReg}
    (hpx : s.params.px = .absent → dst ≠ src → dst ≠ .px ∧ src ≠ .px)
    (hx : (if hasComplement dst then p.cx else takes s p) = true →
      (∃ v, s.readUReg src = .ok v) ∧ s.writeRefusal dst (valueOf s src) = none)
    (hy : (hasComplement dst && p.cy) = true → (∃ v, s.readUReg (complement src) = .ok v) ∧
      s.writeRefusal (complement dst) (valueOf s (complement src)) = none) :
    uregTransfer s p dst src = .ok (regWhen (if hasComplement dst then p.cx else takes s p) dst (valueOf s src) ++
      regWhen (hasComplement dst && p.cy) (complement dst) (valueOf s (complement src))) := by
  unfold uregTransfer
  cases hc : hasComplement dst
  · simp only [hc, Bool.false_eq_true, if_false] at hx ⊢
    rw [onlyIf_regWhen fun hg => moveReg_ok hpx (hx hg).1 (hx hg).2, Bool.false_and]
    exact congrArg Except.ok (List.append_nil _).symm
  · simp only [hc, if_true, Bool.true_and] at hx hy ⊢
    have hpy : s.params.px = .absent → complement dst ≠ complement src → complement dst ≠ .px ∧ complement src ≠ .px :=
        by
      intro ha _
      have hd : dst ≠ .px := by
        rintro rfl
        cases hc
      refine ⟨fun h => hd (complement_eq_px h), fun h => ?_⟩
      have hs := complement_eq_px h
      exact (hpx ha (by rw [hs]; exact hd)).2 hs
    rw [onlyIf_regWhen fun hg => moveReg_ok hpx (hx hg).1 (hx hg).2, Run.ok_bind,
      onlyIf_regWhen fun hg => moveReg_ok hpy (hy hg).1 (hy hg).2, Run.ok_bind]
    rfl

theorem exec_uregToUreg {s : State} {cond : Cond} {p : CondPair} (hp : evalCond s cond = .ok p) (c : Compute)
    (dst src : UReg) : exec (.uregToUreg cond c dst src) s = Run.outcome
      (uregTransfer s p dst src >>= fun w => commit s (computeWrites s c p.cx p.cy ++ w)) := by
  show execUregToUreg cond c dst src s = _
  unfold execUregToUreg
  rw [hp]
  rfl

theorem exec_swap {s : State} {cond : Cond} {p : CondPair} (hp : evalCond s cond = .ok p) (c : Compute) (a b : RegNum) :
    exec (.swap cond c a b) s =
      Run.outcome (commit s (computeWrites s c p.cx p.cy ++ swapWrites s (takes s p) a b)) := by
  show execSwap cond c a b s = _
  unfold execSwap
  rw [hp]
  rfl

/-- What a swap leaves of `t`, its values from `s`. -/
def swapped (s t : State) (a b : RegNum) : State :=
  { t with x := { t.x with rf := t.x.rf.set a s.y.rf[b] }, y := { t.y with rf := t.y.rf.set b s.x.rf[a] } }

theorem leaves_swap (s : State) (go : Bool) (a b : RegNum) :
    Leaves s (swapWrites s go a b) (fun t => if go then swapped s t a b else t)
      (if go then [.ureg (.r a), .ureg (.s b)] else []) := by
  cases go
  · exact ⟨fun _ _ => rfl, rfl⟩
  · refine ⟨fun t _ => ?_, rfl⟩
    unfold swapWrites swapped
    simp [Write.apply, State.writeUReg]

/-- Settles O43: a move of one or two registers, or a swap, committed with the compute. -/
theorem registerMoves : Obligations.RegisterMoves := by
  intro s cond c p hp
  refine ⟨fun dst src hpx hx hy => ?move, fun a b => ?swap⟩
  case move =>
    rw [exec_uregToUreg hp, uregTransfer_ok hpx hx hy, Run.ok_bind]
    have h := ((leaves_regWhen s (if hasComplement dst then p.cx else takes s p) dst (valueOf s src)).append
      (leaves_regWhen s (hasComplement dst && p.cy) (complement dst) (valueOf s (complement src)))).commit c p
    rw [← List.append_assoc (computePlaces s c p)] at h
    exact outcome_ite h
  case swap =>
    rw [exec_swap hp]
    exact outcome_ite ((leaves_swap s (takes s p) a b).commit c p)

/-! ### Long words -/

section
variable {s : State} {lw : Bool} {a : Word} {u : UReg} {p : CondPair}

theorem directMove_pair {store : Bool} (h : pairMovable s lw a u (allElements s)) :
    directMove s lw store u a = .ok (pairMoved s s store a u (allElements s)) := by
  obtain ⟨ws, hx, hw, hp⟩ := xfer_pair (store := store) h none
  unfold directMove
  rw [show xfer s lw a u store true s.simd none = .ok ws from hx, Run.ok_bind,
    commit_of_nodup _ _ (by rw [hp]; exact pairPlaces_nodup ..), hw]

theorem indexedMove_pair {g : Dag} {i : Fin 8} {store : Bool} {data : Word} (hd : sameDag g u = false)
    (h : pairMovable s lw (s.i[g.reg i] + data) u (allElements s)) :
    indexedMove s g i lw store u data = .ok (pairMoved s s store (s.i[g.reg i] + data) u (allElements s)) := by
  obtain ⟨ws, hx, hw, hp⟩ := xfer_pair (store := store) h (some (g.reg i))
  unfold indexedMove
  rw [hd, if_neg Bool.false_ne_true]
  dsimp only
  rw [show xfer s lw (s.i[g.reg i] + data) u store true s.simd (some (g.reg i)) = .ok ws from hx, Run.ok_bind,
    commit_of_nodup _ _ (by rw [hp]; exact pairPlaces_nodup ..), hw]

/-- A long word access without the neighbour pair is refused where it runs. -/
theorem xfer_absent (hl : s.params.longWord = .absent) (hpx : u = .px → s.params.px ≠ .absent)
    (hlong : isLong s lw a = true) {ex ey : Bool} (hx : ex = true) (hs : s.simd = true → ey = true) (store : Bool)
    (k : Option RegNum) : xfer s lw a u store ex ey k = refuse .longWord := by
  subst hx
  have hp : pxRefused s u = false := by simpa [pxRefused] using hpx
  have hsame : (s.simd && true != ey) = false := by
    cases hsd : s.simd
    · rfl
    · simp [hs hsd]
  unfold xfer madeOnce
  rw [hlong, Bool.true_or, if_pos rfl, hsame, if_neg Bool.false_ne_true, onlyIf_true]
  cases store
  · unfold loadReg loadPair
    rw [if_neg Bool.false_ne_true, hp, if_neg Bool.false_ne_true, hlong, if_pos rfl, hl]
  · unfold storeReg storePair
    rw [if_pos rfl, hp, if_neg Bool.false_ne_true, hlong, if_pos rfl, hl]

theorem isLong_of_region (h : s.region a = .long) : isLong s lw a = true := by
  simp [isLong, h]

theorem xfer_dreg_absent {n : RegNum} (hl : s.params.longWord = .absent) (hr : s.region a = .long) {ex ey : Bool}
    (hx : ex = true) (hs : s.simd = true → ey = true) (store : Bool) (k : Option RegNum) :
    xfer s false a (.r n) store ex ey k = refuse .longWord :=
  xfer_absent hl (fun h => UReg.noConfusion h) (isLong_of_region hr) hx hs store k

theorem outcome_refused {α : Type} {x : Run α} {r : Refusal} (h : x = refuse r) (f : α → Run State) :
    Run.outcome (x >>= f) = .refused r := by
  rw [h]
  rfl

theorem directMove_refused {store : Bool} {r : Refusal} (h : xfer s lw a u store true s.simd none = refuse r) :
    directMove s lw store u a = refuse r := by
  unfold directMove
  rw [h]
  rfl

theorem indexedMove_refused {g : Dag} {i : Fin 8} {store : Bool} {data : Word} {r : Refusal} (hd : sameDag g u = false)
    (h : xfer s lw (s.i[g.reg i] + data) u store true s.simd (some (g.reg i)) = refuse r) :
    indexedMove s g i lw store u data = refuse r := by
  unfold indexedMove
  rw [hd, if_neg Bool.false_ne_true]
  dsimp only
  rw [h]
  rfl

theorem jumpElseMove_refused {mv : DregMove} {target : ProgAddr} {c : Compute} (hl : s.params.longWord = .absent)
    (hr : s.region s.i[Dag.dm.reg mv.i] = .long) (hx : p.cx = false) (hy : s.simd = true → p.cy = false) :
    jumpElseMove s p target c mv = refuse .longWord := by
  have h := xfer_dreg_absent (n := mv.reg) hl hr (ex := true) (ey := s.simd && !p.cy) rfl
    (fun h => by rw [h, hy h]; rfl) mv.store (some (Dag.dm.reg mv.i))
  unfold jumpElseMove
  dsimp only
  rw [hx, Bool.not_false, h]
  rfl

end

/-- Settles O46: with the neighbour pair a long word access is `pairMoved`; without it the access itself is refused. -/
theorem longWordMoves : Obligations.LongWordMoves := by
  intro s g i m u a long cond c post store p hpx hn hp hs
  have hall : s.simd = true → (allElements s).cx = (allElements s).cy := fun h => h.symm
  refine ⟨fun hl => ⟨fun hr => ?direct, fun hd hr => ?indexed, fun hd hr => ?type3⟩, fun hl => ⟨fun hr => ?direct',
    fun hd hr => ?indexed', fun hd hr hx => ?type3', fun data reg hr hx => ?type4, fun sh reg hr hx => ?type6,
    fun mv hr hx => ?type10, fun dm pm hr => ?type1⟩⟩
  case direct =>
    exact ⟨congrArg Run.outcome (directMove_pair ⟨hl, hn, hpx, hr, hall⟩),
      congrArg Run.outcome (directMove_pair ⟨hl, hn, hpx, hr, hall⟩)⟩
  case indexed =>
    exact ⟨congrArg Run.outcome (indexedMove_pair hd ⟨hl, hn, hpx, hr, hall⟩),
      congrArg Run.outcome (indexedMove_pair hd ⟨hl, hn, hpx, hr, hall⟩)⟩
  case type3 =>
    obtain ⟨ws, hx, hw, hpl⟩ := xfer_pair (store := store) ⟨hl, hn, hpx, hr, hs⟩ (some (g.reg i))
    have hgo : (post && p.cx) = (post && (p.cx || p.cy)) := by
      cases hsd : s.simd
      · rw [evalCond_sisd hp hsd, Bool.or_false]
      · rw [← hs hsd, Bool.or_self]
    have hleaves : Leaves s ws _ _ := ⟨fun t _ => hw t, hpl⟩
    have hcom := (hleaves.append (.postmod s (post && p.cx) (g.reg i) s.m[g.reg m])).commit c p
    rw [← List.append_assoc, ← List.append_assoc] at hcom
    rw [exec_uregMove hp c post i m store long hd, ← hgo]
    refine outcome_ite (Eq.trans ?_ hcom)
    rw [show xfer s long (indexAddr s post (g.reg i) s.m[g.reg m]) u store p.cx p.cy (some (g.reg i)) = .ok ws from hx,
      Run.ok_bind]
  case direct' =>
    have hx := xfer_absent hl hpx (isLong_of_reached hr) (ey := s.simd) rfl id
    exact ⟨congrArg Run.outcome (directMove_refused (hx true none)), congrArg Run.outcome (directMove_refused (hx false
        none))⟩
  case indexed' =>
    have hx := xfer_absent hl hpx (isLong_of_reached hr) (ey := s.simd) rfl id
    exact ⟨congrArg Run.outcome (indexedMove_refused hd (hx true _)),
      congrArg Run.outcome (indexedMove_refused hd (hx false _))⟩
  case type3' =>
    rw [exec_uregMove hp c post i m store long hd]
    exact outcome_refused (xfer_absent hl hpx (isLong_of_reached hr) hx (fun h => (hs h).symm.trans hx) _ _) _
  case type4 =>
    rw [exec_dregMoveImm hp]
    exact outcome_refused (xfer_dreg_absent hl hr hx (fun h => (hs h).symm.trans hx) _ _) _
  case type6 =>
    rw [exec_shiftImmMove hp]
    exact outcome_refused (xfer_dreg_absent hl hr hx (fun h => (hs h).symm.trans hx) _ _) _
  case type10 =>
    have h := fun target => jumpElseMove_refused (c := c) (target := target) hl hr hx fun h => (hs h).symm.trans hx
    exact ⟨fun j n => (exec_jumpIndElse hp ..).trans (congrArg Run.outcome (h _)),
      fun rel => (exec_jumpRelElse hp ..).trans (congrArg Run.outcome (h _))⟩
  case type1 =>
    rw [exec_dualMove]
    rcases hr with hr | ⟨hn, hr⟩
    · exact outcome_refused (xfer_dreg_absent hl hr rfl id _ _) _
    · obtain ⟨wd, hd, -⟩ := xfer_ok (k := some (Dag.dm.reg dm.i)) hn id
      rw [show xfer s false s.i[Dag.dm.reg dm.i] (.r dm.reg) dm.store true s.simd (some (Dag.dm.reg dm.i)) = .ok wd from
        hd, Run.ok_bind]
      exact outcome_refused (xfer_dreg_absent hl hr rfl id _ _) _

end Sys2Proof.Machine
end

section
/-! MODIFY and BITREV: one update of an index register in its circular buffer (43_misc.md section 2, 40_compute_move.md
R230, 20_memory.md R112 to R114). -/

-- One proof at a time: each thread that elaborates beside another reserves a gigabyte of the check's memory.
set_option Elab.async false

namespace Sys2Proof.Machine

section
variable (s : State) (k : RegNum) (m : Word)

theorem wrap_of_inside (h : wraps s k m = false) : wrap s k m = s.i[k] + m := by simp [wrap, h]

/-- Where a buffer corrects, the sum lies outside it on the side the modifier points to. -/
theorem wraps_eq_true :
    wraps s k m = true ↔ (s.l[k].toNat : Int) ≠ 0 ∧
      ((0 ≤ m.toInt ∧ (s.b[k].toNat : Int) + s.l[k].toNat ≤ s.i[k].toNat + m.toInt) ∨
        (m.toInt < 0 ∧ (s.i[k].toNat : Int) + m.toInt < s.b[k].toNat)) := decide_eq_true_iff

theorem wraps_of_empty (h : s.l[k] = 0#32) : wraps s k m = false := by
  rw [Bool.eq_false_iff, Ne, wraps_eq_true]
  rintro ⟨hl, -⟩
  exact hl (by rw [h]; rfl)

end

/-- The sum of an address and a signed number that lies in the address space. -/
theorem toNat_add_signed {a m : Word} (h0 : 0 ≤ (a.toNat : Int) + m.toInt) (h1 : (a.toNat : Int) + m.toInt < 2 ^ 32) :
    ((a + m).toNat : Int) = a.toNat + m.toInt := by
  have hm := m.isLt
  have ha := a.isLt
  rw [BitVec.toNat_add]
  rw [BitVec.toInt_eq_toNat_cond] at *
  split at * <;> omega

theorem toNat_add_sub {a m l : Word} (h0 : (0 : Int) ≤ a.toNat + m.toInt - l.toNat)
    (h1 : (a.toNat : Int) + m.toInt - l.toNat < 2 ^ 32) :
    ((a + m - l).toNat : Int) = a.toNat + m.toInt - l.toNat := by
  have hm := m.isLt
  have ha := a.isLt
  have hl := l.isLt
  rw [BitVec.toNat_sub, BitVec.toNat_add]
  rw [BitVec.toInt_eq_toNat_cond] at *
  split at * <;> omega

theorem toNat_add_add {a m l : Word} (h0 : (0 : Int) ≤ a.toNat + m.toInt + l.toNat)
    (h1 : (a.toNat : Int) + m.toInt + l.toNat < 2 ^ 32) :
    ((a + m + l).toNat : Int) = a.toNat + m.toInt + l.toNat := by
  have hm := m.isLt
  have ha := a.isLt
  have hl := l.isLt
  rw [BitVec.toNat_add, BitVec.toNat_add]
  rw [BitVec.toInt_eq_toNat_cond] at *
  split at * <;> omega

/-- One correction by the length keeps the index in its buffer. -/
theorem wrap_in_buffer {s : State} {k : RegNum} {m : Word} (hl : s.l[k] ≠ 0#32)
    (htop : s.b[k].toNat + s.l[k].toNat ≤ 2 ^ 32) (hlo : s.b[k].toNat ≤ s.i[k].toNat)
    (hhi : s.i[k].toNat < s.b[k].toNat + s.l[k].toNat) (hm : m.toInt.natAbs ≤ s.l[k].toNat) :
    (s.b[k].toNat ≤ (wrap s k m).toNat ∧ (wrap s k m).toNat < s.b[k].toNat + s.l[k].toNat) ∧
      (s.l[k].toNat : Int) ∣ ((wrap s k m).toNat : Int) - (s.i[k].toNat + m.toInt) ∧
      (wraps s k m = true ↔ (s.i[k].toNat : Int) + m.toInt < s.b[k].toNat ∨
        (s.b[k].toNat : Int) + s.l[k].toNat ≤ s.i[k].toNat + m.toInt) := by
  have hl' : (s.l[k].toNat : Int) ≠ 0 := by
    intro h
    exact hl (BitVec.eq_of_toNat_eq (by simpa using h))
  have hiff := wraps_eq_true s k m
  rcases hw : wraps s k m with _ | _
  · rw [hw] at hiff
    have hin : ¬ _ := fun h => Bool.false_ne_true (hiff.mpr h)
    have hv := toNat_add_signed (a := s.i[k]) (m := m) (by omega) (by omega)
    rw [wrap_of_inside s k m hw, hv, sub_self]
    exact ⟨by omega, dvd_zero _, iff_of_false Bool.false_ne_true (by omega)⟩
  · obtain ⟨-, hout⟩ := hiff.mp hw
    by_cases hneg : m.toInt < 0
    · have hv := toNat_add_add (a := s.i[k]) (m := m) (l := s.l[k]) (by omega) (by omega)
      rw [show wrap s k m = s.i[k] + m + s.l[k] by simp [wrap, hw, hneg], hv]
      exact ⟨by omega, ⟨1, by ring⟩, iff_of_true rfl (by omega)⟩
    · have hv := toNat_add_sub (a := s.i[k]) (m := m) (l := s.l[k]) (by omega) (by omega)
      rw [show wrap s k m = s.i[k] + m - s.l[k] by simp [wrap, hw, hneg], hv]
      exact ⟨by omega, ⟨-1, by ring⟩, iff_of_true rfl (by omega)⟩

/-! ### The writes -/

theorem overflowBit_eq (k : RegNum) (w : Word) :
    w ||| overflowBit k = if decide (k = 7 ∨ k = 15) then setBit w (if k = 7 then 17 else 18) true else w := by
  unfold overflowBit
  by_cases h7 : k = 7
  · subst h7
    simp [bitWord, setBit]
  · by_cases h15 : k = 15
    · subst h15
      simp [bitWord, setBit]
    · simp [h7, h15, bitWord]

theorem indexed_eq (t : State) (k : RegNum) (v : Word) (w : Bool) :
    indexed t k v w =
      { t with
        i := t.i.set k v
        x := if w && decide (k = 7 ∨ k = 15) then
            { t.x with stky := setBit t.x.stky (if k = 7 then 17 else 18) true }
          else t.x } := by
  unfold indexed
  rw [overflowBit_eq]
  cases w
  · rfl
  · cases decide (k = 7 ∨ k = 15) <;> rfl

theorem commit_indexWrites (s : State) (k : RegNum) (v : Word) (w : Bool) :
    commit s (indexWrites k v w) = .ok (indexed s k v w) := by
  rw [commit_of_nodup _ _ (indexWrites_nodup k v w), foldl_indexWrites]

theorem exec_modifyReg {s : State} {cond : Cond} {p : CondPair} (hp : evalCond s cond = .ok p) (c : Compute) (g : Dag)
    (i m : Fin 8) : exec (.modifyReg cond c g i m) s = Run.outcome
      (commit s (computeWrites s c p.cx p.cy ++ if p.cx || p.cy then modifyWrites s (g.reg i) s.m[g.reg m] else [])) :=
          by
  show execModifyReg cond c g i m s = _
  unfold execModifyReg
  rw [hp]
  rfl

/-- An index register and its sticky bit are no place of a compute. -/
theorem compute_disjoint_index (s : State) (c : Compute) (ex ey : Bool) (k : RegNum) (v : Word) (w : Bool) :
    List.Disjoint ((computeWrites s c ex ey).flatMap Write.places) ((indexWrites k v w).flatMap Write.places) := by
  intro q hq hq'
  obtain ⟨e, -, hq⟩ := mem_computePlaces hq
  have hk : q = .ureg (.i k) ∨ q = .overflow k := by
    cases w
    · exact .inl (by simpa [indexWrites, indexWrite, Write.places, regPlaces] using hq')
    · simpa [indexWrites, indexWrite, Write.places, regPlaces] using hq'
  rcases hq with ⟨n, -, rfl⟩ | ⟨_, rfl⟩ | rfl | rfl
  · cases e <;> simp [dregOf] at hk
  · simp at hk
  · simp at hk
  · simp at hk

/-- Settles O48: the next index is `wrap`, and its sticky bit that of `wraps`. -/
theorem circularModify : Obligations.CircularModify := by
  intro s g i m data k
  refine ⟨wrap s k, wraps s k, ?_⟩
  dsimp only
  simp only [← indexed_eq]
  refine ⟨?imm, ⟨rev32 (wrap s k data), ?bits, ?rev⟩, ?reg, fun m => ⟨rfl, ?empty, ?buffer⟩⟩
  case imm => exact congrArg Run.outcome (commit_indexWrites s k _ _)
  case bits =>
    intro j hj
    rw [rev32, BitVec.getLsbD_reverse, BitVec.getMsbD_eq_getLsbD]
    simp [hj]
  case rev => exact congrArg Run.outcome (commit_indexWrites s k _ _)
  case reg =>
    intro cond c p hp hc
    rw [exec_modifyReg hp]
    cases hgo : p.cx || p.cy
    · rw [if_neg Bool.false_ne_true, List.append_nil, commit_computeWrites s c _ _ hc]
      rfl
    · rw [if_pos rfl, modifyWrites, commit_compute s c _ _ _ hc (indexWrites_nodup ..) (compute_disjoint_index ..),
        foldl_indexWrites]
      rfl
  case empty =>
    intro h
    have hw := wraps_of_empty s k m h
    exact ⟨wrap_of_inside s k m hw, hw⟩
  case buffer => exact wrap_in_buffer

end Sys2Proof.Machine
end

section
/-! The fixed-point ALU (44_alu_fixed.md): the adder as an exact signed sum, and what each operation leaves on an
element. -/

-- One proof at a time: each thread that elaborates beside another reserves a gigabyte of the check's memory.
set_option Elab.async false

namespace Sys2Proof.Machine

/-! ### A compute on each element -/

/-- An instruction that is a compute alone does the same on each element. -/
theorem exec_onElements {i : Instr} (h : standsAlone i = true) (hc : (destRegs i.compute).Nodup) {s : State}
    {f : Pe → Pe} (hf : ∀ e p, p.apply (evalCompute i.compute (s.env e) p) = f p) :
    exec i s = .next (onElements s f) := by
  rw [exec_alone h hc, computed_onElements hf]

theorem exec_onEach {i : Instr} (h : standsAlone i = true) (hc : (destRegs i.compute).Nodup) {s : State}
    {f : Element → Pe → Pe} (hf : ∀ e p, p.apply (evalCompute i.compute (s.env e) p) = f e p) :
    exec i s = .next (onEach s f) := by
  rw [exec_alone h hc]
  unfold computed onEach allElements
  simp only [if_true, hf]

/-- A compute of the ALU alone, its result a fixed-point number. -/
theorem exec_alu {i : Instr} (h : standsAlone i = true) {s : State} {rn : RegNum} {o : Element → Pe → AluOut}
    {out : Pe → Word} {fl : Pe → AluFlags}
    (hi : ∀ e p, evalCompute i.compute (s.env e) p = aluResult rn (o e p))
    (ho : ∀ e p, o e p = ⟨toFx (out p), fl p⟩) :
    exec i s = .next (onElements s fun p => aluTo p rn (out p) (fl p)) := by
  refine exec_onElements h ?_ fun e p => ?_
  · rw [← evalCompute_regs i.compute (s.env .x) s.x, hi]
    exact List.nodup_singleton _
  · rw [hi, ho, apply_aluResult]

/-- An element after a compare: its flags, and its result in the compare accumulation (R366). -/
theorem apply_compResult (p : Pe) (o : CompOut) :
    p.apply (compResult o) = withAlu { p with astat := accumulateCompare o.gt p.astat } o.flags := by
  simp [Pe.apply, compResult, withAlu, PeResult.none, PeResult.astat, PeResult.sticky]

/-- The flags of a compare of two numbers, and which is greater. -/
theorem compOut_eq {p q r : Prop} [Decidable p] [Decidable q] [Decidable r] (h : r ↔ ¬ p ∧ ¬ q) (ai af : Bool) :
    compOut (decide p) (decide q) ai af =
      ⟨{ az := decide p, au := false, an := decide q, av := false, ac := false, as := false, ai := ai, af := af },
        decide r⟩ := by
  unfold compOut
  have hr : decide r = (!decide p && !decide q) := by
    rw [Bool.eq_iff_iff]
    simpa using h
  rw [hr]

/-! ### The adder (R361, R362) -/

theorem toInt_eq_sub (x : Word) : x.toInt = (x.toNat : Int) - if x.getLsbD 31 then 2 ^ 32 else 0 := by
  rw [BitVec.toInt_eq_msb_cond, show x.msb = x.getLsbD 31 from BitVec.msb_eq_getLsbD_last x]
  split <;> simp

theorem bit31_eq (x : Word) : x.getLsbD 31 = decide (2 ^ 31 ≤ x.toNat) := by
  rw [show x.getLsbD 31 = x.msb from (BitVec.msb_eq_getLsbD_last x).symm, BitVec.msb_eq_decide]

theorem ofInt_toNat_sum (x y : Word) (ci : Bool) :
    BitVec.ofInt 32 (x.toInt + y.toInt + ci.toNat) = BitVec.ofNat 32 (x.toNat + y.toNat + ci.toNat) := by
  apply BitVec.eq_of_toInt_eq
  rw [BitVec.toInt_ofInt, BitVec.toInt_ofNat', BitVec.toInt_eq_toNat_bmod, BitVec.toInt_eq_toNat_bmod]
  push_cast
  rw [add_right_comm, Int.add_assoc, Int.bmod_add_bmod, ← add_assoc, Int.add_comm _ (Int.bmod _ _), Int.bmod_add_bmod]
  congr 1
  omega

/-- The exact sum of the adder. -/
def wideSum (x y : Word) (ci : Bool) : Int := x.toInt + y.toInt + ci.toNat

theorem add32_r (x y : Word) (ci : Bool) : (add32 x y ci).r = BitVec.ofInt 32 (wideSum x y ci) :=
  (ofInt_toNat_sum x y ci).symm

/-- The sum overflows when the carries into and out of the sign differ. -/
theorem add32_ov (x y : Word) (ci : Bool) :
    (add32 x y ci).ov = decide (wideSum x y ci < -(2 ^ 31) ∨ 2 ^ 31 ≤ wideSum x y ci) := by
  have hx := x.isLt
  have hy := y.isLt
  have hc := ci.toNat_le
  unfold add32 wideSum
  simp only [BitVec.toInt_eq_toNat_cond]
  rw [Bool.eq_iff_iff, bne_iff_ne, ne_eq, decide_eq_decide, decide_eq_true_iff]
  split <;> split <;> omega

/-- An overflowed sum has the sign opposite to its result. -/
theorem add32_sign {x y : Word} {ci : Bool} (h : (add32 x y ci).ov = true) :
    (add32 x y ci).r.getLsbD 31 = decide (2 ^ 31 ≤ wideSum x y ci) := by
  rw [add32_ov, decide_eq_true_iff] at h
  have hx := x.isLt
  have hy := y.isLt
  have hc := ci.toNat_le
  rw [bit31_eq, add32_r, BitVec.toNat_ofInt, decide_eq_decide]
  unfold wideSum at *
  simp only [BitVec.toInt_eq_toNat_cond] at *
  split at h <;> split at h <;> omega

theorem saturate_add32 (mode1 x y : Word) (ci : Bool) :
    saturate mode1 (add32 x y ci) = sumOut mode1 (wideSum x y ci) := by
  have hov := add32_ov x y ci
  unfold saturate sumOut
  cases alusat mode1
  · simp [add32_r]
  · cases h : (add32 x y ci).ov
    · rw [h, eq_comm, decide_eq_false_iff_not] at hov
      rw [add32_r, Bool.and_false, if_neg Bool.false_ne_true, if_pos rfl, min_eq_left (by omega), max_eq_right (by
          omega)]
    · rw [h, eq_comm, decide_eq_true_iff] at hov
      rw [add32_sign h]
      simp only [Bool.and_true, if_true, decide_eq_true_eq]
      split
      · rw [min_eq_right (by omega)]
        rfl
      · rw [min_eq_left (by omega), max_eq_left (by omega)]
        rfl

/-- The output of the adder with its flags, by the exact sum. -/
theorem addOut_add32 {mode1 x y : Word} {ci : Bool} {v : Int} {carry : Bool} (hv : wideSum x y ci = v)
    (hc : decide (2 ^ 32 ≤ x.toNat + y.toNat + ci.toNat) = carry) :
    addOut mode1 (add32 x y ci) = ⟨toFx (sumOut mode1 v), sumFlags mode1 v carry⟩ := by
  subst hv hc
  unfold addOut sumFlags logicFlags
  rw [saturate_add32, ← add32_ov]
  rfl

theorem toInt_not_eq (y : Word) : (~~~y).toInt = -y.toInt - 1 := by
  have hy := y.isLt
  rw [BitVec.toInt_eq_toNat_cond, BitVec.toInt_eq_toNat_cond, BitVec.toNat_not]
  split <;> split <;> omega

theorem toNat_not_eq (y : Word) : (~~~y).toNat = 2 ^ 32 - 1 - y.toNat := BitVec.toNat_not

/-! ### The operations -/

theorem bit31_eq_neg (x : Word) : x.getLsbD 31 = decide (x.toInt < 0) := by
  have hx := x.isLt
  rw [bit31_eq, decide_eq_decide, BitVec.toInt_eq_toNat_cond]
  split <;> omega

/-- The absolute value is a sum too: of 0 and the negated number, or of the number and 0. -/
theorem addOut_abs (mode1 x : Word) :
    addOut mode1 (if x.getLsbD 31 then add32 0#32 (~~~x) true else add32 x 0#32 false) =
      ⟨toFx (sumOut mode1 x.toInt.natAbs), sumFlags mode1 x.toInt.natAbs false⟩ := by
  have hx := x.isLt
  have hneg := bit31_eq_neg x
  cases h : x.getLsbD 31
  · rw [h, eq_comm, decide_eq_false_iff_not] at hneg
    refine addOut_add32 ?_ (decide_eq_false ?_)
    · simp only [wideSum, BitVec.toInt_zero, Bool.toNat_false]
      omega
    · rw [BitVec.toNat_ofNat, Bool.toNat_false]
      omega
  · have hbit := bit31_eq x
    rw [h, eq_comm, decide_eq_true_iff] at hneg hbit
    refine addOut_add32 ?_ (decide_eq_false ?_)
    · simp only [wideSum, toInt_not_eq, Bool.toNat_true, BitVec.toInt_zero]
      omega
    · rw [toNat_not_eq, BitVec.toNat_ofNat, Bool.toNat_true]
      omega

theorem logicOut_of_eq {x y : Word} (h : x = y) : logicOut x = ⟨toFx y, logicFlags y⟩ := h ▸ rfl

/-- CLIP as a number: the first operand held within the magnitude of the second (R384). -/
theorem clipFixed_eq (x y : Word) :
    clipFixed x y = BitVec.ofInt 32 (max (-(y.toInt.natAbs : Int)) (min x.toInt y.toInt.natAbs)) := by
  unfold clipFixed
  split
  · rw [min_eq_left (by omega), max_eq_right (by omega), BitVec.ofInt_toInt]
  · split
    · rw [min_eq_right (by omega), max_eq_right (by omega)]
    · rw [min_eq_left (by omega), max_eq_left (by omega)]

/-- The exact signed sum halved, rounded as TRUNC says (R370). -/
def halfSum (mode1 x y : Word) : Int :=
  let sum := x.toInt + y.toInt
  if truncMode mode1 = true ∨ sum % 2 = 0 ∨ sum / 2 % 2 = 0 then sum / 2 else sum / 2 + 1

theorem average_eq (mode1 x y : Word) : average mode1 x y = BitVec.ofInt 32 (halfSum mode1 x y) := by
  unfold average halfSum
  dsimp only
  by_cases ht : truncMode mode1 = true
  · rw [if_pos ht, if_pos (.inl ht)]
  · rw [if_neg ht, apply_ite (BitVec.ofInt 32)]
    simp only [ht]
    split_ifs <;> first | rfl | tauto

theorem halfSum_trunc {mode1 x y : Word} (h : truncMode mode1 = true) :
    2 * halfSum mode1 x y ≤ x.toInt + y.toInt ∧ x.toInt + y.toInt < 2 * halfSum mode1 x y + 2 := by
  unfold halfSum
  rw [if_pos (.inl h)]
  omega

theorem halfSum_nearest {mode1 x y : Word} (h : truncMode mode1 = false) :
    2 * halfSum mode1 x y - 1 ≤ x.toInt + y.toInt ∧ x.toInt + y.toInt ≤ 2 * halfSum mode1 x y + 1 ∧
      (x.toInt + y.toInt ≠ 2 * halfSum mode1 x y → halfSum mode1 x y % 2 = 0) := by
  unfold halfSum
  rw [h]
  simp only [Bool.false_eq_true, false_or]
  split <;> omega

/-- Settles O1: the ten adder operations by `addOut_add32`, the others by the number they choose. -/
theorem fixedArithmetic : Obligations.FixedArithmetic := by
  intro s rn rx ry
  have carry {p q : Prop} [Decidable p] [Decidable q] (h : p ↔ q) : decide p = decide q := decide_eq_decide.mpr h
  refine ⟨?add, ?sub, ?addCi, ?subCi, ?incCi, ?decCi, ?inc, ?dec, ?neg, ?abs, ?min, ?max, ?clip, ?avg⟩
  case add =>
    exact exec_alu rfl (fun _ _ => rfl) fun e p => addOut_add32 (by simp [wideSum]) (by simp)
  case sub =>
    refine exec_alu rfl (fun _ _ => rfl) fun e p => addOut_add32 ?_ (carry ?_)
    · simp only [wideSum, toInt_not_eq, Bool.toNat_true]
      omega
    · have := (p.fx ry).isLt
      rw [toNat_not_eq, Bool.toNat_true]
      omega
  case addCi =>
    exact exec_alu rfl (fun _ _ => rfl) fun e p => addOut_add32 rfl rfl
  case subCi =>
    refine exec_alu rfl (fun _ _ => rfl) fun e p => addOut_add32 ?_ (carry ?_)
    · simp only [wideSum, toInt_not_eq]
      omega
    · have := (p.fx ry).isLt
      rw [toNat_not_eq]
      omega
  case incCi =>
    refine exec_alu rfl (fun _ _ => rfl) fun e p => addOut_add32 ?_ (carry ?_)
    · simp [wideSum]
    · simp
  case decCi =>
    refine exec_alu rfl (fun _ _ => rfl) fun e p => addOut_add32 ?_ (carry ?_)
    · rw [wideSum, show (0xFFFFFFFF#32).toInt = -1 from rfl]
      omega
    · rw [show (0xFFFFFFFF#32).toNat = 2 ^ 32 - 1 from rfl]
      omega
  case inc =>
    refine exec_alu rfl (fun _ _ => rfl) fun e p => addOut_add32 ?_ (carry ?_)
    · simp [wideSum]
    · have := (p.fx rx).isLt
      rw [← BitVec.toNat_inj, show (0xFFFFFFFF#32).toNat = 2 ^ 32 - 1 from rfl, BitVec.toNat_ofNat, Bool.toNat_true]
      omega
  case dec =>
    refine exec_alu rfl (fun _ _ => rfl) fun e p => addOut_add32 ?_ (carry ?_)
    · rw [wideSum, show (0xFFFFFFFF#32).toInt = -1 from rfl]
      simp
      omega
    · rw [Ne, ← BitVec.toNat_inj, show (0xFFFFFFFF#32).toNat = 2 ^ 32 - 1 from rfl, BitVec.toNat_ofNat,
          Bool.toNat_false]
      omega
  case neg =>
    refine exec_alu rfl (fun _ _ => rfl) fun e p => addOut_add32 ?_ (carry ?_)
    · simp only [wideSum, toInt_not_eq, Bool.toNat_true, BitVec.toInt_zero]
      omega
    · have := (p.fx rx).isLt
      rw [← BitVec.toNat_inj, toNat_not_eq, BitVec.toNat_ofNat, Bool.toNat_true]
      omega
  case abs =>
    refine exec_alu rfl (fun _ _ => rfl) fun e p => ?_
    unfold fixOp1
    dsimp only
    rw [addOut_abs, bit31_eq_neg]
    rfl
  case min =>
    refine exec_alu rfl (fun _ _ => rfl) fun e p => logicOut_of_eq ?_
    rw [min_def]
    split <;> exact BitVec.ofInt_toInt.symm
  case max =>
    refine exec_alu rfl (fun _ _ => rfl) fun e p => logicOut_of_eq ?_
    rw [max_comm, max_def]
    split <;> exact BitVec.ofInt_toInt.symm
  case clip =>
    exact exec_alu rfl (fun _ _ => rfl) fun e p => logicOut_of_eq (clipFixed_eq _ _)
  case avg =>
    refine ⟨fun p => halfSum s.mode1 (p.fx rx) (p.fx ry), fun p => halfSum_trunc, fun p => halfSum_nearest,
      exec_alu rfl (fun _ _ => rfl) fun e p => ?_⟩
    unfold fixOp2
    dsimp only
    rw [average_eq]
    rfl

/-- Settles O2: the compares by their flags and accumulation, the others by `logicOut`. -/
theorem fixedCompareAndLogic : Obligations.FixedCompareAndLogic := by
  intro s rn rx ry
  refine ⟨?comp, ?compu, exec_alu rfl (fun _ _ => rfl) fun _ _ => rfl, exec_alu rfl (fun _ _ => rfl) fun _ _ => rfl,
    exec_alu rfl (fun _ _ => rfl) fun _ _ => rfl, exec_alu rfl (fun _ _ => rfl) fun _ _ => rfl,
    exec_alu rfl (fun _ _ => rfl) fun _ _ => rfl⟩
  case comp =>
    refine exec_onElements (i := .compFix rx ry) rfl List.nodup_nil fun e p => ?_
    refine (apply_compResult p (compareFixed false (p.fx rx) (p.fx ry))).trans ?_
    rw [show compareFixed false (p.fx rx) (p.fx ry) = _ from
      compOut_eq (r := (p.fx ry).toInt < (p.fx rx).toInt) (by rw [← BitVec.toInt_inj]; omega) false false]
    simp only [← BitVec.toInt_inj]
    rfl
  case compu =>
    refine exec_onElements (i := .compuFix rx ry) rfl List.nodup_nil fun e p => ?_
    refine (apply_compResult p (compareFixed true (p.fx rx) (p.fx ry))).trans ?_
    rw [show compareFixed true (p.fx rx) (p.fx ry) = _ from
      compOut_eq (r := (p.fx ry).toNat < (p.fx rx).toNat) (by rw [← BitVec.toNat_inj]; omega) false false]
    simp only [← BitVec.toNat_inj]
    rfl

end Sys2Proof.Machine
end

section
/-! The fixed-point multiplier (46_multiplier.md): its flags as statements about numbers, rounding, saturation, and what
each operation leaves on an element. -/

-- One proof at a time: each thread that elaborates beside another reserves a gigabyte of the check's memory.
set_option Elab.async false

namespace Sys2Proof.Machine

/-! ### Flags (R454) -/

theorem upperPlain_unsigned (r : ResultWord) (lo : Nat) : upperPlain r lo false = decide (r.toNat < 2 ^ lo) := by
  unfold upperPlain
  dsimp only
  rw [Bool.false_and, Bool.or_false, decide_eq_decide, Nat.div_eq_zero_iff]
  have := Nat.two_pow_pos lo
  omega

/-- The upper bits of a signed number are alike when it lies within the places below them. -/
theorem upperPlain_signed (r : ResultWord) {lo : Nat} (h : lo ∈ [31, 32, 63]) :
    upperPlain r lo true = decide (-(2 ^ lo) ≤ r.toInt ∧ r.toInt < 2 ^ lo) := by
  have hr := r.isLt
  unfold upperPlain
  dsimp only
  rw [Bool.true_and, Bool.eq_iff_iff, Bool.or_eq_true, decide_eq_true_iff, decide_eq_true_iff, decide_eq_true_iff,
    BitVec.toInt_eq_toNat_cond]
  simp only [List.mem_cons, List.not_mem_nil, or_false] at h
  rcases h with rfl | rfl | rfl <;> split <;> omega

theorem mulFlags_mn (r : ResultWord) (frac signed : Bool) : (mulFlags r frac signed).mn = decide (r.toInt < 0) := by
  have hr := r.isLt
  show r.getLsbD 79 = _
  rw [← BitVec.msb_eq_getLsbD_last, BitVec.msb_eq_decide, decide_eq_decide, BitVec.toInt_eq_toNat_cond]
  split <;> omega

/-- The numbers of a signed format reach up to this, those of an unsigned one to twice it. -/
def formatBound (frac : Bool) : Nat := if frac then 2 ^ 63 else 2 ^ 31

/-- MV: the result is no number of its format. -/
theorem mvFixed_eq (r : ResultWord) (frac signed : Bool) :
    mvFixed r frac signed =
      if signed then decide (r.toInt < -(formatBound frac : Int) ∨ (formatBound frac : Int) ≤ r.toInt)
      else decide (2 * formatBound frac ≤ r.toNat) := by
  cases frac <;> cases signed <;>
    simp only [mvFixed, formatBound, upperPlain_unsigned, if_true, Bool.false_eq_true, if_false]
  · rw [← decide_not, decide_eq_decide]
    omega
  · rw [upperPlain_signed r (by simp), ← decide_not, decide_eq_decide]
    omega
  · rw [← decide_not, decide_eq_decide]
    omega
  · rw [upperPlain_signed r (by simp), ← decide_not, decide_eq_decide]
    omega

theorem low32_eq_zero (r : ResultWord) : r.extractLsb' 0 32 = 0#32 ↔ r.toNat % 2 ^ 32 = 0 := by
  rw [← BitVec.toNat_inj, BitVec.extractLsb'_toNat]
  simp

/-- MU: a fraction below the unit of bit 32, and not 0. -/
theorem muFixed_eq (r : ResultWord) (frac signed : Bool) :
    muFixed r frac signed = (frac &&
      if signed then decide (-(2 ^ 32) < r.toInt ∧ r.toInt < 2 ^ 32 ∧ r.toInt ≠ 0)
      else decide (0 < r.toNat ∧ r.toNat < 2 ^ 32)) := by
  have hr := r.isLt
  unfold muFixed
  rw [Bool.and_assoc]
  congr 1
  rw [Bool.eq_iff_iff, Bool.and_eq_true, decide_eq_true_iff, Ne, low32_eq_zero]
  cases signed
  · rw [upperPlain_unsigned, if_neg Bool.false_ne_true, decide_eq_true_iff, decide_eq_true_iff]
    omega
  · rw [upperPlain_signed r (by simp), if_pos rfl, decide_eq_true_iff, decide_eq_true_iff, BitVec.toInt_eq_toNat_cond]
    split <;> omega

/-- Settles O14. -/
theorem multiplierFlags : Obligations.MultiplierFlags := by
  intro r frac signed
  refine ⟨mulFlags_mn r frac signed, ?mv, ?mu, rfl, fun k => ?sticky⟩
  case mv =>
    rw [show (mulFlags r frac signed).mv = _ from mvFixed_eq r frac signed]
    cases signed <;> cases frac <;> simp [formatBound]
  case mu =>
    rw [show (mulFlags r frac signed).mu = _ from muFixed_eq r frac signed, Bool.and_eq_true]
    cases signed <;> simp
  case sticky =>
    unfold MulFlags.sticky
    rw [show (mulFlags r frac signed).floating = false from rfl, show (mulFlags r frac signed).mi = false from rfl]
    simp only [BitVec.getLsbD_or, bitWord_getLsbD (show 6 < 32 by decide), bitWord_getLsbD (show 7 < 32 by decide),
      bitWord_getLsbD (show 8 < 32 by decide), bitWord_getLsbD (show 9 < 32 by decide)]
    simp

/-! ### Rounding and accumulating (R452, R453, R459 to R466) -/

/-- A multiple of 2^32 as 48 bits above 32 zeros. -/
theorem append_zeros_eq {h : BitVec 48} {q : Int} (hq : h = BitVec.ofInt 48 q) :
    h ++ 0#32 = BitVec.ofInt 80 (q * 2 ^ 32) := by
  subst hq
  apply BitVec.eq_of_toNat_eq
  have hm : q * 2 ^ 32 % 2 ^ 80 = q % 2 ^ 48 * 2 ^ 32 := by omega
  rw [BitVec.toNat_append, BitVec.toNat_ofInt, BitVec.toNat_ofInt, Nat.shiftLeft_eq, BitVec.toNat_ofNat]
  simp only [Nat.zero_mod, Nat.or_zero]
  omega

/-- What rounding at bit 32 leaves: the nearest multiple of 2^32, an even one on a tie (R453). -/
theorem rnd80_nearest (v : ResultWord) : ∃ q : Int,
    rnd80 v = BitVec.ofInt 80 (q * 2 ^ 32) ∧
      2 * (v.toInt - q * 2 ^ 32) ≤ 2 ^ 32 ∧ -(2 ^ 32) ≤ 2 * (v.toInt - q * 2 ^ 32) ∧
      ((2 * (v.toInt - q * 2 ^ 32) = 2 ^ 32 ∨ 2 * (v.toInt - q * 2 ^ 32) = -(2 ^ 32)) → q % 2 = 0) := by
  have hv := v.isLt
  have hlo : (v.extractLsb' 0 32).toNat = v.toNat % 2 ^ 32 := by simp [BitVec.extractLsb'_toNat]
  have hhi : (v.extractLsb' 32 48).toNat = v.toNat / 2 ^ 32 := by
    rw [BitVec.extractLsb'_toNat, Nat.shiftRight_eq_div_pow]
    omega
  have hodd : (v.extractLsb' 32 48).getLsbD 0 = decide (v.toNat / 2 ^ 32 % 2 = 1) := by
    rw [← hhi, BitVec.getLsbD, Nat.testBit_zero]
  have hint : v.toInt = (v.extractLsb' 32 48).toInt * 2 ^ 32 + (v.toNat % 2 ^ 32 : Nat) := by
    rw [BitVec.toInt_eq_toNat_cond, BitVec.toInt_eq_toNat_cond, hhi]
    split <;> split <;> omega
  have hpar : (v.extractLsb' 32 48).toInt % 2 = v.toNat / 2 ^ 32 % 2 := by
    rw [BitVec.toInt_eq_toNat_cond, hhi]
    split <;> omega
  unfold rnd80
  dsimp only
  rw [hlo, hodd, hint]
  generalize hq : (v.extractLsb' 32 48).toInt = q at hpar
  have heq : v.extractLsb' 32 48 = BitVec.ofInt 48 q := by rw [← hq, BitVec.ofInt_toInt]
  split
  next hup =>
    rw [decide_eq_true_iff] at hup
    refine ⟨q + 1, append_zeros_eq ?_, ?_⟩
    · rw [BitVec.ofInt_add, heq]
      rfl
    · omega
  next hdown =>
    rw [decide_eq_true_iff] at hdown
    exact ⟨q, append_zeros_eq heq, by omega⟩

theorem isFractional_eq (f : MulFormat) : isFractional f = decide (f ≠ .integer) := by cases f <;> rfl

theorem mulFlags_eq (r : ResultWord) (frac signed : Bool) :
    mulFlags r frac signed =
      { mn := decide (r.toInt < 0)
        mv := if signed then decide (r.toInt < -(formatBound frac : Int) ∨ (formatBound frac : Int) ≤ r.toInt)
          else decide (2 * formatBound frac ≤ r.toNat)
        mu := frac && if signed then decide (-(2 ^ 32) < r.toInt ∧ r.toInt < 2 ^ 32 ∧ r.toInt ≠ 0)
          else decide (0 < r.toNat ∧ r.toNat < 2 ^ 32)
        mi := false
        floating := false } := by
  rw [← mulFlags_mn r frac signed, ← mvFixed_eq, ← muFixed_eq]
  rfl

/-- The exact product of two inputs, that of two signed fractions doubled (R452). -/
def exactProduct (m : Mod2) (x y : Word) : Int :=
  (if isFractional m.format && m.xSigned && m.ySigned then 2 else 1) *
    (inputValue m.xSigned x * inputValue m.ySigned y)

theorem prod80_eq (m : Mod2) (x y : Word) : prod80 m x y = BitVec.ofInt 80 (exactProduct m x y) := by
  unfold prod80 exactProduct
  dsimp only
  split
  · rw [Int.mul_comm]
  · rw [Int.one_mul]

theorem mac80_eq (m : Mod2) (acc : ResultWord) (x y : Word) :
    acc + prod80 m x y = BitVec.ofInt 80 (acc.toInt + exactProduct m x y) := by
  rw [BitVec.ofInt_add, BitVec.ofInt_toInt, prod80_eq]

theorem msu80_eq (m : Mod2) (acc : ResultWord) (x y : Word) :
    acc - prod80 m x y = BitVec.ofInt 80 (acc.toInt - exactProduct m x y) := by
  rw [Int.sub_eq_add_neg, BitVec.ofInt_add, BitVec.ofInt_neg, BitVec.ofInt_toInt, prod80_eq, BitVec.sub_eq_add_neg]

theorem roundFor_eq (m : Mod2) (v : ResultWord) : roundFor m v = if m.format = .rounded then rnd80 v else v := by
  unfold roundFor
  cases m.format <;> rfl

/-! ### What a multiplier result leaves on an element -/

theorem apply_mulToRn (p : Pe) (rn : RegNum) (frac : Bool) (o : MulOut) :
    p.apply (mulToRn rn frac o) = withMul { p with rf := p.rf.set rn (toRn o.r frac) } o.flags := by
  simp [Pe.apply, mulToRn, withMul, PeResult.none, PeResult.astat, PeResult.sticky]

theorem apply_mulToMr (p : Pe) (bank : MrBank) (o : MulOut) :
    p.apply (mulToMr bank o) = withMul (p.withMr bank o.r) o.flags := by
  cases bank <;> simp [Pe.apply, mulToMr, withMul, PeResult.none, PeResult.astat, PeResult.sticky, Pe.withMr]

/-- The result of a multiply for an exact value, and its flags. -/
theorem mulOut_ofInt (m : Mod2) {w : ResultWord} {v : Int} (h : w = BitVec.ofInt 80 v) :
    mulOut m w = ⟨if m.format = .rounded then rnd80 (BitVec.ofInt 80 v) else BitVec.ofInt 80 v,
      mulFlags (if m.format = .rounded then rnd80 (BitVec.ofInt 80 v) else BitVec.ofInt 80 v) (isFractional m.format)
        (signedResult m)⟩ := by
  subst h
  unfold mulOut
  rw [roundFor_eq]

/-- Settles O15: each operation is `mulOut` of an exact value, put into a register or an MR register. -/
theorem multiplyAccumulate : Obligations.MultiplyAccumulate := by
  refine ⟨rnd80, rnd80_nearest, ?_⟩
  intro s m rn rx ry fraction signed input product result bound flags toReg toF toB does
  have hfrac : isFractional m.format = fraction := isFractional_eq _
  have hproduct (p : Pe) : exactProduct m (p.fx rx) (p.fx ry) = product p := by
    unfold exactProduct
    rw [hfrac]
    rfl
  have hflags (r : ResultWord) : mulFlags r (isFractional m.format) (signedResult m) = flags r := by
    rw [hfrac]
    exact mulFlags_eq r _ _
  have hreg {i : Instr} {w : Pe → ResultWord} {v : Pe → Int} (h : standsAlone i = true)
      (hd : destRegs i.compute = [rn])
      (hi : ∀ e p, evalCompute i.compute (s.env e) p = mulToRn rn (isFractional m.format) (mulOut m (w p)))
      (hw : ∀ p, w p = BitVec.ofInt 80 (v p)) : does i fun p => toReg p (v p) := by
    refine exec_onElements h (hd ▸ List.nodup_singleton rn) fun e p => ?_
    rw [hi, apply_mulToRn, mulOut_ofInt m (hw p), hflags, hfrac]
    rfl
  have hmr {i : Instr} (bank : MrBank) {w : Pe → ResultWord} {v : Pe → Int} (h : standsAlone i = true)
      (hd : destRegs i.compute = [])
      (hi : ∀ e p, evalCompute i.compute (s.env e) p = mulToMr bank (mulOut m (w p)))
      (hw : ∀ p, w p = BitVec.ofInt 80 (v p)) :
      does i fun p => withMul (p.withMr bank (result (v p))) (flags (result (v p))) := by
    refine exec_onElements h (hd ▸ List.nodup_nil) fun e p => ?_
    rw [hi, apply_mulToMr, mulOut_ofInt m (hw p), hflags]
  have hmul (p : Pe) : prod80 m (p.fx rx) (p.fx ry) = BitVec.ofInt 80 (product p) := hproduct p ▸ prod80_eq m _ _
  have hmac (acc : Pe → ResultWord) (p : Pe) :
      acc p + prod80 m (p.fx rx) (p.fx ry) = BitVec.ofInt 80 ((acc p).toInt + product p) := hproduct p ▸ mac80_eq m _ _
          _
  have hmsu (acc : Pe → ResultWord) (p : Pe) :
      acc p - prod80 m (p.fx rx) (p.fx ry) = BitVec.ofInt 80 ((acc p).toInt - product p) := hproduct p ▸ msu80_eq m _ _
          _
  exact ⟨hreg rfl rfl (fun _ _ => rfl) hmul, hmr .f rfl rfl (fun _ _ => rfl) hmul, hmr .b rfl rfl (fun _ _ => rfl) hmul,
    hreg rfl rfl (fun _ _ => rfl) (hmac Pe.mrf), hreg rfl rfl (fun _ _ => rfl) (hmac Pe.mrb),
    hmr .f rfl rfl (fun _ _ => rfl) (hmac Pe.mrf), hmr .b rfl rfl (fun _ _ => rfl) (hmac Pe.mrb),
    hreg rfl rfl (fun _ _ => rfl) (hmsu Pe.mrf), hreg rfl rfl (fun _ _ => rfl) (hmsu Pe.mrb),
    hmr .f rfl rfl (fun _ _ => rfl) (hmsu Pe.mrf), hmr .b rfl rfl (fun _ _ => rfl) (hmsu Pe.mrb)⟩

/-! ### The operations on an MR value (R470 to R483) -/

/-- SAT holds a value between the least and the greatest number of its format. -/
theorem sat80_eq (m : Mod1) (v : ResultWord) :
    sat80 m v =
      if m.signed then
        BitVec.ofInt 80
          (max (-(2 ^ (if m.fractional then 63 else 31))) (min v.toInt (2 ^ (if m.fractional then 63 else 31) - 1)))
      else BitVec.ofNat 80 (min v.toNat (2 ^ (if m.fractional then 64 else 32) - 1)) := by
  obtain ⟨fractional, signed⟩ := m
  have hinside (lo hi : Int) (h1 : ¬ hi < v.toInt) (h2 : ¬ v.toInt < lo) :
      v = BitVec.ofInt 80 (max lo (min v.toInt hi)) := by
    rw [min_eq_left (by omega), max_eq_right (by omega), BitVec.ofInt_toInt]
  have hbelow (hi : Nat) (h : ¬ hi < v.toNat) : v = BitVec.ofNat 80 (min v.toNat hi) := by
    rw [min_eq_left (by omega), BitVec.ofNat_toNat, BitVec.setWidth_eq]
  cases signed <;> cases fractional <;>
    simp only [sat80, if_true, Bool.false_eq_true, if_false]
  · split
    next h =>
      rw [min_eq_right (by omega)]
      rfl
    next h => exact hbelow _ h
  · split
    next h =>
      rw [min_eq_right (by omega)]
      rfl
    next h => exact hbelow _ h
  · split
    next h =>
      rw [min_eq_right (by omega), max_eq_right (by omega)]
      rfl
    next h =>
      split
      next h' =>
        rw [min_eq_left (by omega), max_eq_left (by omega)]
        rfl
      next h' => exact hinside _ _ h h'
  · split
    next h =>
      rw [min_eq_right (by omega), max_eq_right (by omega)]
      rfl
    next h =>
      split
      next h' =>
        rw [min_eq_left (by omega), max_eq_left (by omega)]
        rfl
      next h' => exact hinside _ _ h h'

/-- An operation that puts a result into a data register. -/
theorem exec_mulToRn {i : Instr} (h : standsAlone i = true) {s : State} {rn : RegNum} {frac : Bool} {o : Pe → MulOut}
    (hi : ∀ e p, evalCompute i.compute (s.env e) p = mulToRn rn frac (o p)) {r : Pe → ResultWord} {fl : Pe → MulFlags}
    (ho : ∀ p, o p = ⟨r p, fl p⟩) :
    exec i s = .next (onElements s fun p => withMul { p with rf := p.rf.set rn (toRn (r p) frac) } (fl p)) := by
  refine exec_onElements h ?_ fun e p => by rw [hi, apply_mulToRn, ho]
  rw [← evalCompute_regs i.compute (s.env .x) s.x, hi]
  exact List.nodup_singleton _

/-- An operation that leaves a result in an MR register. -/
theorem exec_mulToMr {i : Instr} (h : standsAlone i = true) {s : State} (bank : MrBank) {o : Pe → MulOut}
    (hi : ∀ e p, evalCompute i.compute (s.env e) p = mulToMr bank (o p)) {r : Pe → ResultWord} {fl : Pe → MulFlags}
    (ho : ∀ p, o p = ⟨r p, fl p⟩) :
    exec i s = .next (onElements s fun p => withMul (p.withMr bank (r p)) (fl p)) := by
  refine exec_onElements h ?_ fun e p => by rw [hi, apply_mulToMr, ho]
  rw [← evalCompute_regs i.compute (s.env .x) s.x, hi]
  exact List.nodup_nil

theorem apply_clear (p : Pe) (bank : MrBank) :
    p.apply { PeResult.none with mr := some (bank, 0#80) } = p.withMr bank 0#80 := by
  cases bank <;> simp [Pe.apply, PeResult.none, PeResult.astat, PeResult.sticky, Pe.withMr]

theorem apply_putMr (p : Pe) (bank : MrBank) (v : ResultWord) :
    p.apply { PeResult.none with mr := some (bank, v), mul := some transferFlags } =
      withMul (p.withMr bank v) transferFlags := apply_mulToMr p bank ⟨v, transferFlags⟩

theorem apply_getMr (p : Pe) (rk : RegNum) (v : Word) :
    p.apply { PeResult.none with regs := [(rk, toFx v)], mul := some transferFlags } =
      withMul { p with rf := p.rf.set rk (toFx v) } transferFlags := by
  simp [Pe.apply, withMul, PeResult.none, PeResult.astat, PeResult.sticky]

/-- Settles O16: saturation and rounding as results of the multiplier, a clear and a transfer as they are. -/
theorem mrOperations : Obligations.MrOperations := by
  refine ⟨rnd80, rnd80_nearest, ?_⟩
  intro s n sg rn saturated satFlags rndFlags reg part f b no low middle high does
  have hsat (v : ResultWord) : saturateMr n v = ⟨saturated v, satFlags v⟩ := by
    unfold saturateMr
    rw [sat80_eq]
  have hget {i : Instr} {v : Pe → Word} (h : standsAlone i = true) (hd : destRegs i.compute = [rn])
      (hi : ∀ (e : Element) (p : Pe), p.apply (evalCompute i.compute (s.env e) p) =
        withMul { p with rf := p.rf.set rn (toFx (v p)) } transferFlags) : does i fun p => reg p (v p) no :=
    exec_onElements h (hd ▸ List.nodup_singleton rn) hi
  have hput {i : Instr} (bank : MrBank) {v : Pe → ResultWord} (h : standsAlone i = true) (hd : destRegs i.compute = [])
      (hi : ∀ (e : Element) (p : Pe), p.apply (evalCompute i.compute (s.env e) p) = withMul (p.withMr bank (v p))
          transferFlags) :
      does i fun p => withMul (p.withMr bank (v p)) no := exec_onElements h (hd ▸ List.nodup_nil) hi
  have hround {i : Instr} {v : Pe → ResultWord} (h : standsAlone i = true)
      (hi : ∀ e p, evalCompute i.compute (s.env e) p = mulToRn rn true (roundMr sg (miOf p.astat) (v p))) :
      does i fun p => reg p ((rnd80 (v p)).extractLsb' 32 32) (rndFlags p (v p)) :=
    exec_mulToRn h hi fun _ => rfl
  have hrnd (signed : Bool) (p : Pe) (v : ResultWord) :
      roundMr signed (miOf p.astat) v = ⟨rnd80 v, { mulFlags (rnd80 v) true signed with mi := p.astat.getLsbD 9 }⟩ :=
          rfl
  exact ⟨exec_mulToRn rfl (fun _ _ => rfl) fun p => hsat p.mrf, exec_mulToRn rfl (fun _ _ => rfl) fun p => hsat p.mrb,
    exec_mulToMr rfl .f (fun _ _ => rfl) fun p => hsat p.mrf, exec_mulToMr rfl .b (fun _ _ => rfl) fun p => hsat p.mrb,
    hround rfl fun _ _ => rfl, hround rfl fun _ _ => rfl,
    exec_mulToMr rfl .f (fun _ _ => rfl) fun p => hrnd sg p p.mrf,
    exec_mulToMr rfl .b (fun _ _ => rfl) fun p => hrnd sg p p.mrb,
    exec_onElements (i := .clrMrf) rfl List.nodup_nil fun _ p => apply_clear p .f,
    exec_onElements (i := .clrMrb) rfl List.nodup_nil fun _ p => apply_clear p .b,
    hput .f rfl rfl fun _ p => apply_putMr p .f _, hput .f rfl rfl fun _ p => apply_putMr p .f _,
    hput .f rfl rfl fun _ p => apply_putMr p .f _, hput .b rfl rfl fun _ p => apply_putMr p .b _,
    hput .b rfl rfl fun _ p => apply_putMr p .b _, hput .b rfl rfl fun _ p => apply_putMr p .b _,
    hget rfl rfl fun _ p => apply_getMr p rn _, hget rfl rfl fun _ p => apply_getMr p rn _,
    hget rfl rfl fun _ p => apply_getMr p rn _, hget rfl rfl fun _ p => apply_getMr p rn _,
    hget rfl rfl fun _ p => apply_getMr p rn _, hget rfl rfl fun _ p => apply_getMr p rn _⟩

end Sys2Proof.Machine
end

section
/-! The 40-bit floating-point format as rational numbers (45_alu_float.md R400, R410): fields, values, order. -/

-- One proof at a time: each thread that elaborates beside another reserves a gigabyte of the check's memory.
set_option Elab.async false

namespace Sys2Proof.Machine

/-! ### Fields -/

theorem fexp_lt (v : DataWord) : fexp v < 256 := (v.extractLsb' 31 8).isLt

theorem ffrac_lt (v : DataWord) : ffrac v < 2 ^ 31 := (v.extractLsb' 0 31).isLt

theorem fexp_eq (v : DataWord) : fexp v = v.toNat / 2 ^ 31 % 2 ^ 8 := by
  unfold fexp
  rw [BitVec.extractLsb'_toNat, Nat.shiftRight_eq_div_pow]

theorem ffrac_eq (v : DataWord) : ffrac v = v.toNat % 2 ^ 31 := by
  unfold ffrac
  rw [BitVec.extractLsb'_toNat, Nat.shiftRight_zero]

theorem fsign_eq (v : DataWord) : fsign v = decide (2 ^ 39 ≤ v.toNat) := by
  unfold fsign
  rw [show v.getLsbD 39 = v.msb from (BitVec.msb_eq_getLsbD_last v).symm, BitVec.msb_eq_decide]

/-- The magnitude bits of a number: its exponent above its fraction. -/
theorem magnitude_eq (v : DataWord) : (v.extractLsb' 0 39).toNat = fexp v * 2 ^ 31 + ffrac v := by
  rw [BitVec.extractLsb'_toNat, fexp_eq, ffrac_eq, Nat.shiftRight_zero]
  omega

theorem fclass_normal {v : DataWord} : fclass v = .normal ↔ 1 ≤ fexp v ∧ fexp v ≤ 254 := by
  have := fexp_lt v
  unfold fclass
  split_ifs <;> simp <;> omega

theorem fclass_zero {v : DataWord} : fclass v = .zero ↔ fexp v = 0 := by
  unfold fclass
  split_ifs <;> simp <;> omega

theorem fclass_inf {v : DataWord} : fclass v = .inf ↔ fexp v = 255 ∧ ffrac v = 0 := by
  unfold fclass
  split_ifs <;> simp_all

theorem fclass_nan {v : DataWord} : fclass v = .nan ↔ fexp v = 255 ∧ ffrac v ≠ 0 := by
  unfold fclass
  split_ifs <;> simp_all

/-! ### Values -/

theorem floatValue_of_zero {v : DataWord} (h : fclass v = .zero) : floatValue v = 0 := if_pos (fclass_zero.mp h)

/-- The magnitude of an operand: its significand in its unit, 0 of a Zero; an Inf counts as 2^128. -/
def fmagnitude (v : DataWord) : ℚ := if fclass v = .zero then 0 else ((2 ^ 31 + ffrac v : Nat) : ℚ) * 2 ^ funit v

theorem fmagnitude_of_zero {v : DataWord} (h : fclass v = .zero) : fmagnitude v = 0 := if_pos h

theorem fmagnitude_of_ne {v : DataWord} (h : fclass v ≠ .zero) :
    fmagnitude v = ((2 ^ 31 + ffrac v : Nat) : ℚ) * 2 ^ funit v := if_neg h

theorem fsig_of_zero {v : DataWord} (h : fclass v = .zero) : fsig v = 0 := by simp [fsig, h]

theorem fsig_of_normal {v : DataWord} (h : fclass v = .normal) : fsig v = 2 ^ 31 + ffrac v := by simp [fsig, h]

/-- The magnitude of a Normal or a Zero by its significand. -/
theorem fmagnitude_eq_fsig {v : DataWord} (h : fclass v = .normal ∨ fclass v = .zero) :
    fmagnitude v = (fsig v : ℚ) * 2 ^ funit v := by
  rcases h with h | h
  · rw [fmagnitude_of_ne (by simp [h]), fsig_of_normal h]
  · rw [fmagnitude_of_zero h, fsig_of_zero h]
    simp

theorem exp_mul_frac (v : DataWord) :
    (2 : ℚ) ^ ((fexp v : Int) - 127) * (1 + (ffrac v : ℚ) / 2 ^ 31) = ((2 ^ 31 + ffrac v : Nat) : ℚ) * 2 ^ funit v := by
  rw [funit, show (fexp v : Int) - 127 = (fexp v - 158) + 31 by ring, zpow_add₀ two_ne_zero]
  push_cast
  field_simp
  norm_cast

theorem floatValue_eq (v : DataWord) : floatValue v = (if fsign v then -1 else 1) * fmagnitude v := by
  by_cases h : fclass v = .zero
  · rw [floatValue_of_zero h, fmagnitude_of_zero h, mul_zero]
  · have hne : ¬ (v.extractLsb' 31 8).toNat = 0 := fun h0 => h (fclass_zero.mpr h0)
    unfold floatValue
    rw [if_neg hne, mul_assoc, fmagnitude_of_ne h, ← exp_mul_frac]
    rfl

theorem fmagnitude_nonneg (v : DataWord) : 0 ≤ fmagnitude v := by
  unfold fmagnitude
  split <;> positivity

theorem abs_floatValue (v : DataWord) : |floatValue v| = fmagnitude v := by
  rw [floatValue_eq, abs_mul, abs_of_nonneg (fmagnitude_nonneg v)]
  cases fsign v <;> simp

/-! ### Order (R410) -/

/-- The magnitude of an operand that is no Zero lies in the binade of its exponent. -/
theorem fmagnitude_binade {v : DataWord} (h : fclass v ≠ .zero) :
    (2 : ℚ) ^ (funit v + 31) ≤ fmagnitude v ∧ fmagnitude v < 2 ^ (funit v + 32) := by
  have hf : (ffrac v : ℚ) < 2 ^ 31 := by exact_mod_cast ffrac_lt v
  have hp : (0 : ℚ) < 2 ^ funit v := by positivity
  rw [fmagnitude_of_ne h, zpow_add₀ two_ne_zero, zpow_add₀ two_ne_zero, mul_comm _ ((2 : ℚ) ^ funit v)]
  push_cast
  constructor
  · refine mul_le_mul_of_nonneg_left ?_ hp.le
    norm_num
  · refine mul_lt_mul_of_pos_left ?_ hp
    linarith only [hf]

/-- The magnitude bits of a number, 0 of a Zero. -/
def fmagKey (v : DataWord) : Nat := if fclass v = .zero then 0 else fexp v * 2 ^ 31 + ffrac v

theorem fkey_eq (v : DataWord) : fkey v = (if fsign v then -1 else 1) * (fmagKey v : Int) := by
  unfold fkey fmagKey
  rw [magnitude_eq]
  cases fsign v <;> split <;> simp

theorem fmagKey_of_zero {v : DataWord} (h : fclass v = .zero) : fmagKey v = 0 := if_pos h

theorem fmagKey_of_ne {v : DataWord} (h : fclass v ≠ .zero) : fmagKey v = fexp v * 2 ^ 31 + ffrac v := if_neg h

theorem fmagKey_pos {v : DataWord} : 0 < fmagKey v ↔ fclass v ≠ .zero := by
  refine ⟨fun h hz => by simp [fmagKey_of_zero hz] at h, fun h => ?_⟩
  have he : fexp v ≠ 0 := fun h0 => h (fclass_zero.mpr h0)
  rw [fmagKey_of_ne h]
  omega

/-- The magnitude bits order as the magnitudes. -/
theorem fmagnitude_strictMono {a b : DataWord} (h : fmagKey a < fmagKey b) : fmagnitude a < fmagnitude b := by
  have hb : fclass b ≠ .zero := fmagKey_pos.mp (by omega)
  obtain ⟨hlow, -⟩ := fmagnitude_binade hb
  by_cases ha : fclass a = .zero
  · rw [fmagnitude_of_zero ha]
    exact lt_of_lt_of_le (by positivity) hlow
  · have hfa := ffrac_lt a
    have hfb := ffrac_lt b
    rw [fmagKey_of_ne ha, fmagKey_of_ne hb] at h
    rcases (show fexp a ≤ fexp b by omega).lt_or_eq with hlt | heq
    · calc fmagnitude a < 2 ^ (funit a + 32) := (fmagnitude_binade ha).2
        _ ≤ 2 ^ (funit b + 31) := zpow_le_zpow_right₀ one_le_two (by unfold funit; omega)
        _ ≤ fmagnitude b := hlow
    · have hf : ((2 ^ 31 + ffrac a : Nat) : ℚ) < (2 ^ 31 + ffrac b : Nat) := by
        exact_mod_cast (by omega : 2 ^ 31 + ffrac a < 2 ^ 31 + ffrac b)
      rw [fmagnitude_of_ne ha, fmagnitude_of_ne hb, show funit a = funit b by unfold funit; rw [heq]]
      exact mul_lt_mul_of_pos_right hf (by positivity)

theorem fmagnitude_congr {a b : DataWord} (h : fmagKey a = fmagKey b) : fmagnitude a = fmagnitude b := by
  have hfa := ffrac_lt a
  have hfb := ffrac_lt b
  by_cases ha : fclass a = .zero
  · have hb : fclass b = .zero := by
      by_contra hb
      have := fmagKey_pos.mpr hb
      have := fmagKey_of_zero ha
      omega
    rw [fmagnitude_of_zero ha, fmagnitude_of_zero hb]
  · have hb : fclass b ≠ .zero := fmagKey_pos.mp (h ▸ fmagKey_pos.mpr ha)
    rw [fmagKey_of_ne ha, fmagKey_of_ne hb] at h
    rw [fmagnitude_of_ne ha, fmagnitude_of_ne hb, funit, funit, show fexp a = fexp b by omega,
      show ffrac a = ffrac b by omega]

theorem fmagnitude_lt_iff {a b : DataWord} : fmagKey a < fmagKey b ↔ fmagnitude a < fmagnitude b := by
  rcases lt_trichotomy (fmagKey a) (fmagKey b) with h | h | h
  · exact iff_of_true h (fmagnitude_strictMono h)
  · exact iff_of_false h.not_lt (fmagnitude_congr h).not_lt
  · exact iff_of_false h.le.not_gt (fmagnitude_strictMono h).le.not_gt

theorem fmagnitude_eq_zero {v : DataWord} (hk : fmagKey v = 0) : fmagnitude v = 0 := by
  by_cases h : fclass v = .zero
  · exact fmagnitude_of_zero h
  · have := fmagKey_pos.mpr h
    omega

theorem fmagnitude_pos {v : DataWord} (hk : 0 < fmagKey v) : 0 < fmagnitude v :=
  lt_of_lt_of_le (by positivity) (fmagnitude_binade (fmagKey_pos.mp hk)).1

/-- The order of the keys is that of the values. -/
theorem floatValue_strictMono {a b : DataWord} (h : fkey a < fkey b) : floatValue a < floatValue b := by
  rw [fkey_eq, fkey_eq] at h
  rw [floatValue_eq a, floatValue_eq b]
  have hna := fmagnitude_nonneg a
  have hnb := fmagnitude_nonneg b
  cases hsa : fsign a <;> cases hsb : fsign b <;> rw [hsa, hsb] at h <;>
    simp only [Bool.false_eq_true, if_false, if_true] at h ⊢
  · have := fmagnitude_strictMono (a := a) (b := b) (by omega)
    linarith
  · omega
  · rcases (show 0 < fmagKey a ∨ 0 < fmagKey b by omega) with hk | hk
    · have := fmagnitude_pos hk
      linarith
    · have := fmagnitude_pos hk
      linarith
  · have := fmagnitude_strictMono (a := b) (b := a) (by omega)
    linarith

theorem floatValue_congr {a b : DataWord} (h : fkey a = fkey b) : floatValue a = floatValue b := by
  rw [fkey_eq, fkey_eq] at h
  rw [floatValue_eq a, floatValue_eq b]
  cases hsa : fsign a <;> cases hsb : fsign b <;> rw [hsa, hsb] at h <;>
    simp only [Bool.false_eq_true, if_false, if_true] at h ⊢
  · rw [fmagnitude_congr (a := a) (b := b) (by omega)]
  · rw [fmagnitude_eq_zero (v := a) (by omega), fmagnitude_eq_zero (v := b) (by omega)]
    simp
  · rw [fmagnitude_eq_zero (v := a) (by omega), fmagnitude_eq_zero (v := b) (by omega)]
    simp
  · rw [fmagnitude_congr (a := a) (b := b) (by omega)]

theorem fkey_lt_iff {a b : DataWord} : fkey a < fkey b ↔ floatValue a < floatValue b := by
  rcases lt_trichotomy (fkey a) (fkey b) with h | h | h
  · exact iff_of_true h (floatValue_strictMono h)
  · exact iff_of_false h.not_lt (floatValue_congr h).not_lt
  · exact iff_of_false h.le.not_gt (floatValue_strictMono h).le.not_gt

theorem fkey_eq_iff {a b : DataWord} : fkey a = fkey b ↔ floatValue a = floatValue b := by
  have h1 := fkey_lt_iff (a := a) (b := b)
  have h2 := fkey_lt_iff (a := b) (b := a)
  constructor
  · exact floatValue_congr
  · intro h
    rw [h] at h1 h2
    simp only [lt_irrefl, iff_false] at h1 h2
    omega

end Sys2Proof.Machine
end

section
/-! What each condition reads (30_encoding.md R170 to R174), and what the comparisons say after a compare. -/

-- One proof at a time: each thread that elaborates beside another reserves a gigabyte of the check's memory.
set_option Elab.async false

namespace Sys2Proof.Machine

/-- A condition other than NOT LCE reads the flags alone. -/
theorem evalCond_of_ne (s : State) {c : Cond} (h : c ≠ .lce) :
    evalCond s c = .ok ⟨condHolds c s.view false .x, s.simd && condHolds c s.view false .y⟩ := by
  unfold evalCond
  cases s.loops <;> cases c <;> first | rfl | exact absurd rfl h

theorem evalCond_lce_empty {s : State} (h : s.loops = []) : evalCond s .lce = refuse .emptyStackRegister := by
  unfold evalCond
  rw [h]

theorem evalCond_lce {s : State} {e : LoopEntry} {rest : List LoopEntry} (h : s.loops = e :: rest) :
    evalCond s .lce = .ok ⟨decide (e.count ≠ 1#32), s.simd && decide (e.count ≠ 1#32)⟩ := by
  unfold evalCond
  rw [h]
  rfl

/-! ### After a compare (R366, R410) -/

/-- The flags of the ASTAT of an element that a compare which found `eq` and `lt` left. -/
structure Compared (a : Word) (eq lt : Prop) : Prop where
  az : azOf a = true ↔ eq
  an : anOf a = true ↔ lt
  av : avOf a = false

theorem compared_into {eq lt : Prop} [Decidable eq] [Decidable lt] (w : Word) (ai af : Bool) :
    Compared ((compOut (decide eq) (decide lt) ai af).flags.into w) eq lt := by
  refine ⟨?az, ?an, ?av⟩
  case az => rw [azOf, AluFlags.into_getLsbD]; simp [compOut]
  case an => rw [anOf, AluFlags.into_getLsbD]; simp [compOut]
  case av => rw [avOf, AluFlags.into_getLsbD]; simp [compOut]

theorem Compared.congr {a : Word} {eq lt eq' lt' : Prop} (h : Compared a eq lt) (he : eq ↔ eq') (hl : lt ↔ lt') :
    Compared a eq' lt' := ⟨h.az.trans he, h.an.trans hl, h.av⟩

section
variable {v : FlagView} {e : Element} {eq lt : Prop} (h : Compared (v.astat e) eq lt)
include h

theorem ltCore_compared (hd : eq → ¬ lt) : ltCore v e = true ↔ lt := by
  have haz := h.az
  have han := h.an
  unfold ltCore fixNegative
  rw [← han]
  dsimp only
  rw [h.av]
  have : azOf (v.astat e) = true → anOf (v.astat e) = false := fun hz => by
    simpa using fun hn => hd (haz.mp hz) (han.mp hn)
  cases hz : azOf (v.astat e) <;> cases hn : anOf (v.astat e) <;> simp_all

theorem leCore_compared : leCore v e = true ↔ lt ∨ eq := by
  unfold leCore fixNegative
  rw [← h.az, ← h.an]
  dsimp only
  rw [h.av]
  cases azOf (v.astat e) <;> cases anOf (v.astat e) <;> cases afOf (v.astat e) <;> simp

end

/-- What one of the six comparisons answers after a compare of `a` with `b`. -/
def Says (cond : Cond) (r : ℚ → ℚ → Prop) : Prop :=
  cond ≠ .lce ∧ ∀ (v : FlagView) (e : Element) (a b : ℚ), Compared (v.astat e) (a = b) (a < b) →
    (condHolds cond v false e = true ↔ r a b)

theorem says_eq : Says .eq fun a b => a = b := ⟨nofun, fun _ _ _ _ h => h.az⟩

theorem says_ne : Says .ne fun a b => a ≠ b := ⟨nofun, fun v e a b h => by
  rw [show condHolds .ne v false e = !azOf (v.astat e) from rfl, Bool.not_eq_true', ← Bool.not_eq_true, h.az]⟩

theorem says_lt : Says .lt fun a b => a < b := ⟨nofun, fun _ _ _ _ h => ltCore_compared h fun he => he.not_lt⟩

theorem says_ge : Says .ge fun a b => a ≥ b := ⟨nofun, fun v e a b h => by
  rw [show condHolds .ge v false e = !ltCore v e from rfl, Bool.not_eq_true', ← Bool.not_eq_true,
    ltCore_compared h fun he => he.not_lt, not_lt]⟩

theorem says_le : Says .le fun a b => a ≤ b := ⟨nofun, fun _ _ _ _ h => (leCore_compared h).trans le_iff_lt_or_eq.symm⟩

theorem says_gt : Says .gt fun a b => a > b := ⟨nofun, fun v e a b h => by
  rw [show condHolds .gt v false e = !leCore v e from rfl, Bool.not_eq_true', ← Bool.not_eq_true, leCore_compared h,
    ← le_iff_lt_or_eq, not_le]⟩

/-- A comparison read on both elements after a compare. -/
theorem Says.answers {cond : Cond} {r : ℚ → ℚ → Prop} (h : Says cond r) {s t : State} (ht : t.simd = s.simd)
    {u v : Pe → ℚ} (hx : Compared t.x.astat (u s.x = v s.x) (u s.x < v s.x))
    (hy : s.simd = true → Compared t.y.astat (u s.y = v s.y) (u s.y < v s.y)) :
    ∃ p, evalCond t cond = .ok p ∧ (p.cx = true ↔ r (u s.x) (v s.x)) ∧
      (p.cy = true ↔ s.simd = true ∧ r (u s.y) (v s.y)) := by
  refine ⟨_, evalCond_of_ne t h.1, h.2 t.view .x _ _ hx, ?_⟩
  rw [ht, Bool.and_eq_true]
  exact and_congr_right fun hs => h.2 t.view .y _ _ (hy hs)

/-- A compare whose result on each element is that of two numbers. -/
theorem compared_of_exec {i : Instr} (h : standsAlone i = true) (hd : destRegs i.compute = []) {s t : State}
    {o : Element → Pe → CompOut} (hi : ∀ e p, evalCompute i.compute (s.env e) p = compResult (o e p))
    (ht : exec i s = .next t) :
    t.simd = s.simd ∧ t.x.astat = (o .x s.x).flags.into (accumulateCompare (o .x s.x).gt s.x.astat) ∧
      (s.simd = true → t.y.astat = (o .y s.y).flags.into (accumulateCompare (o .y s.y).gt s.y.astat)) := by
  rw [exec_onEach h (hd ▸ List.nodup_nil) fun e p => by rw [hi, apply_compResult]] at ht
  obtain rfl := Host.Outcome.next.inj ht
  exact ⟨rfl, rfl, fun hs => congrArg Pe.astat (if_pos hs)⟩

/-- Settles O55. -/
theorem conditions : Obligations.Conditions := by
  refine ⟨fun s => ?reads, fun s t rx ry => ?compares⟩
  case reads =>
    refine ⟨?bits, ⟨evalCond_of_ne s nofun, evalCond_of_ne s nofun⟩, ⟨evalCond_of_ne s nofun, evalCond_of_ne s nofun⟩,
      fun n => ⟨flagIn s.view n, ⟨evalCond_of_ne s nofun, evalCond_of_ne s nofun⟩, fun h => if_pos h⟩,
      ⟨busMaster s.view, evalCond_of_ne s nofun, evalCond_of_ne s nofun⟩, evalCond_of_ne s nofun, evalCond_lce_empty,
      fun e rest => evalCond_lce⟩
    intro c hc
    simp only [List.mem_cons, List.not_mem_nil, or_false] at hc
    rcases hc with rfl | rfl | rfl | rfl | rfl | rfl | rfl | rfl <;>
      exact ⟨evalCond_of_ne s nofun, evalCond_of_ne s nofun⟩
  case compares =>
    intro orders
    have horders {u v : Pe → ℚ} (ht : t.simd = s.simd) (hx : Compared t.x.astat (u s.x = v s.x) (u s.x < v s.x))
        (hy : s.simd = true → Compared t.y.astat (u s.y = v s.y) (u s.y < v s.y)) : orders u v :=
      ⟨says_eq.answers ht hx hy, says_ne.answers ht hx hy, says_lt.answers ht hx hy, says_le.answers ht hx hy,
        says_gt.answers ht hx hy, says_ge.answers ht hx hy⟩
    refine ⟨fun ht => ?fixed, fun hx hx' hy ht => ?float⟩
    case fixed =>
      obtain ⟨hs, hax, hay⟩ := compared_of_exec rfl rfl (o := fun _ p => compareFixed false (p.fx rx) (p.fx ry))
        (fun _ _ => rfl) ht
      have hc (p : Pe) (w : Word) : Compared ((compareFixed false (p.fx rx) (p.fx ry)).flags.into w)
          (((p.fx rx).toInt : ℚ) = (p.fx ry).toInt) (((p.fx rx).toInt : ℚ) < (p.fx ry).toInt) :=
        (compared_into w false false).congr (BitVec.toInt_inj.symm.trans Int.cast_inj.symm) Int.cast_lt.symm
      exact horders (u := fun q => (q.fx rx).toInt) (v := fun q => (q.fx ry).toInt) hs (hax ▸ hc s.x _) fun h => hay h
          ▸ hc s.y _
    case float =>
      obtain ⟨hs, hax, hay⟩ := compared_of_exec rfl rfl (o := fun e p => compareFloat (s.env e) p.rf[rx] p.rf[ry])
        (fun _ _ => rfl) ht
      have hc (env : Env) (w : Word) {a b : DataWord} (ha : fclass a = .normal ∨ fclass a = .zero)
          (hb : fclass b = .normal ∨ fclass b = .zero) :
          Compared ((compareFloat env a b).flags.into w) (floatValue a = floatValue b) (floatValue a < floatValue b) := by
        have hnan : ¬ (fclass a = .nan ∨ fclass b = .nan) := by
          rcases ha with h | h <;> rcases hb with h' | h' <;> simp [h, h']
        unfold compareFloat
        rw [if_neg hnan]
        exact (compared_into w false true).congr fkey_eq_iff fkey_lt_iff
      exact horders (u := fun q => floatValue q.rf[rx]) (v := fun q => floatValue q.rf[ry]) hs (hax ▸ hc _ _ hx hx')
          fun h => hay h ▸ hc _ _ (hy h).1 (hy h).2

end Sys2Proof.Machine
end

section
/-! The multifunction operations (48_multifunction.md): two units at once, and the dual add and subtract. -/

-- One proof at a time: each thread that elaborates beside another reserves a gigabyte of the check's memory.
set_option Elab.async false

namespace Sys2Proof.Machine

/-! ### Two units at once (R530) -/

/-- A result of the multiplier alone, into a register or MRF. -/
structure MulOnly (m : PeResult) (f : MulFlags) : Prop where
  mul : m.mul = some f
  alu : m.alu = none
  cmp : m.cmp = none
  shf : m.shf = none
  mr : m.mr.map (fun w => w.1) ≠ some .b

/-- A result of the ALU alone, into registers. -/
structure AluOnly (a : PeResult) (f : AluFlags) : Prop where
  alu : a.alu = some f
  mul : a.mul = none
  cmp : a.cmp = none
  shf : a.shf = none
  mr : a.mr = none

theorem mulOnly_toRn (rn : RegNum) (frac : Bool) (o : MulOut) : MulOnly (mulToRn rn frac o) o.flags :=
  ⟨rfl, rfl, rfl, rfl, nofun⟩

theorem mulOnly_toMr (o : MulOut) : MulOnly (mulToMr .f o) o.flags := ⟨rfl, rfl, rfl, rfl, nofun⟩

theorem mulOnly_float (rn : RegNum) (o : FMulOut) : MulOnly (fmulResult rn o) o.flags := ⟨rfl, rfl, rfl, rfl, nofun⟩

theorem aluOnly_result (rn : RegNum) (o : AluOut) : AluOnly (aluResult rn o) o.flags := ⟨rfl, rfl, rfl, rfl, rfl⟩

theorem aluOnly_dual (ra rs : RegNum) (o : DualOut) : AluOnly (dualResult ra rs o) o.flags := ⟨rfl, rfl, rfl, rfl, rfl⟩

theorem MulOnly.astat {m : PeResult} {f : MulFlags} (h : MulOnly m f) (w : Word) : m.astat w = f.into w := by
  simp [PeResult.astat, h.mul, h.alu, h.cmp, h.shf]

theorem AluOnly.astat {a : PeResult} {f : AluFlags} (h : AluOnly a f) (w : Word) : a.astat w = f.into w := by
  simp [PeResult.astat, h.mul, h.alu, h.cmp, h.shf]

theorem beside_astat {m a : PeResult} {fm : MulFlags} {fa : AluFlags} (hm : MulOnly m fm) (ha : AluOnly a fa) (w :
    Word) :
    (m.beside a).astat w = fm.into (fa.into w) := by
  simp [PeResult.astat, PeResult.beside, hm.mul, ha.alu, ha.cmp, ha.shf]

/-- A written register holds the same whatever the registers held before. -/
theorem foldl_set_mem {ws : List (RegNum × DataWord)} {n : RegNum} (h : n ∈ ws.map (fun w => w.1))
    (rf rf' : Vector DataWord 16) :
    (ws.foldl (fun rf w => rf.set w.1 w.2) rf)[n] = (ws.foldl (fun rf w => rf.set w.1 w.2) rf')[n] := by
  induction ws generalizing rf rf' with
  | nil => cases h
  | cons w ws ih =>
    rw [List.foldl_cons, List.foldl_cons]
    by_cases hn : n ∈ ws.map (fun w => w.1)
    · exact ih hn _ _
    · obtain rfl : n = w.1 := by simpa [hn] using h
      rw [foldl_set_other ws hn, foldl_set_other ws hn]
      simp

theorem beside_rf (p : Pe) (m a : PeResult) : (p.apply (m.beside a)).rf =
    a.regs.foldl (fun rf w => rf.set w.1 w.2) (m.regs.foldl (fun rf w => rf.set w.1 w.2) p.rf) := by
  rw [apply_rf, ← List.foldl_append]
  rfl

/-- AU of an element after an ALU result. -/
theorem apply_au {p : Pe} {r : PeResult} {f : AluFlags} (h : r.alu = some f) : (p.apply r).au = f.au := by
  unfold Pe.apply
  rw [h]
  rcases r.mr with _ | ⟨bank, v⟩
  · rfl
  · cases bank <;> rfl

/-- The MR registers after a result are those its `mr` says. -/
theorem apply_mrf_congr (p : Pe) {r q : PeResult} (h : r.mr = q.mr) : (p.apply r).mrf = (p.apply q).mrf := by
  unfold Pe.apply
  rw [h]
  rcases q.mr with _ | ⟨bank, v⟩
  · rfl
  · cases bank <;> rfl

/-- Each unit's part of two units at once is what it does alone. -/
theorem apply_beside (p : Pe) {m a : PeResult} {fm : MulFlags} {fa : AluFlags} (hm : MulOnly m fm) (ha : AluOnly a fa)
    (hd : ∀ n ∈ m.regs.map (fun w => w.1), n ∉ a.regs.map (fun w => w.1)) :
    (∀ n ∈ m.regs.map (fun w => w.1), (p.apply (m.beside a)).rf[n] = (p.apply m).rf[n]) ∧
      (∀ n ∈ a.regs.map (fun w => w.1), (p.apply (m.beside a)).rf[n] = (p.apply a).rf[n]) ∧
      (∀ n : RegNum, n ∉ m.regs.map (fun w => w.1) → n ∉ a.regs.map (fun w => w.1) →
        (p.apply (m.beside a)).rf[n] = p.rf[n]) ∧
      (∀ k, 6 ≤ k → k ≤ 9 → (p.apply (m.beside a)).astat.getLsbD k = (p.apply m).astat.getLsbD k) ∧
      (∀ k, k ≤ 5 ∨ k = 10 → (p.apply (m.beside a)).astat.getLsbD k = (p.apply a).astat.getLsbD k) ∧
      (∀ k, 11 ≤ k → (p.apply (m.beside a)).astat.getLsbD k = p.astat.getLsbD k) ∧
      (p.apply (m.beside a)).stky = (p.apply m).stky ||| (p.apply a).stky ∧
      (p.apply (m.beside a)).au = (p.apply a).au ∧ (p.apply (m.beside a)).mrf = (p.apply m).mrf ∧
      (p.apply (m.beside a)).mrb = p.mrb := by
  have hregs (n : RegNum) : n ∈ (m.beside a).regs.map (fun w => w.1) ↔
      n ∈ m.regs.map (fun w => w.1) ∨ n ∈ a.regs.map (fun w => w.1) := by simp [PeResult.beside]
  refine ⟨fun n hn => ?mulRegs, fun n hn => ?aluRegs, fun n h h' => ?otherRegs, fun k h h' => ?mulBits, fun k h =>
      ?aluBits,
    fun k h => ?otherBits, ?stky, ?au, ?mrf, ?mrb⟩
  case mulRegs =>
    simp only [beside_rf]
    simp only [apply_rf, foldl_set_other a.regs (hd n hn)]
  case aluRegs =>
    simp only [beside_rf]
    simp only [apply_rf]
    exact foldl_set_mem hn _ _
  case otherRegs => exact apply_rf_other p _ fun hn => ((hregs n).mp hn).elim h h'
  case mulBits =>
    simp only [apply_astat, beside_astat hm ha, hm.astat, MulFlags.into_getLsbD, AluFlags.into_getLsbD]
    simp [show k ≠ 0 by omega, show k ≠ 1 by omega, show k ≠ 2 by omega, show k ≠ 3 by omega, show k ≠ 4 by omega,
      show k ≠ 5 by omega, show k ≠ 10 by omega]
  case aluBits =>
    simp only [apply_astat, beside_astat hm ha, ha.astat, MulFlags.into_getLsbD]
    simp [show k ≠ 6 by omega, show k ≠ 7 by omega, show k ≠ 8 by omega, show k ≠ 9 by omega]
  case otherBits =>
    simp only [apply_astat, beside_astat hm ha, MulFlags.into_getLsbD, AluFlags.into_getLsbD]
    simp [show k ≠ 0 by omega, show k ≠ 1 by omega, show k ≠ 2 by omega, show k ≠ 3 by omega, show k ≠ 4 by omega,
      show k ≠ 5 by omega, show k ≠ 10 by omega, show k ≠ 6 by omega, show k ≠ 7 by omega, show k ≠ 8 by omega,
      show k ≠ 9 by omega]
  case stky =>
    have hboth : (m.beside a).sticky = fa.sticky ||| fm.sticky := by
      simp [PeResult.sticky, PeResult.beside, ha.alu, hm.mul]
    simp only [apply_stky, hboth, sticky_mul hm.alu hm.mul, sticky_alu ha.alu ha.mul]
    ext k hk
    simp
    cases p.stky[k] <;> cases fa.sticky[k] <;> cases fm.sticky[k] <;> rfl
  case au => rw [apply_au (r := m.beside a) ha.alu, apply_au ha.alu]
  case mrf => exact apply_mrf_congr p rfl
  case mrb => exact apply_mr_other p (m.beside a) (bank := .b) hm.mr

/-- A multiplier input of a multifunction operation by its number. -/
theorem regXm_eq (i : Fin 4) : Fin.ofNat 16 i.val = regXm i := Fin.ext (by simp [regXm]; omega)

theorem regYm_eq (i : Fin 4) : Fin.ofNat 16 (4 + i.val) = regYm i := Fin.ext (by simp [regYm]; omega)

theorem regXa_eq (i : Fin 4) : Fin.ofNat 16 (8 + i.val) = regXa i := Fin.ext (by simp [regXa]; omega)

theorem regYa_eq (i : Fin 4) : Fin.ofNat 16 (12 + i.val) = regYa i := Fin.ext (by simp [regYa]; omega)

/-- Settles O5: in every form the result is that of the multiplier beside that of the ALU. -/
theorem parallelUnits : Obligations.ParallelUnits := by
  intro env p rs rm ra mi ai hma hms has xm ym xa ya ssfr ssf fixOps fltOps beside
  have hxm : xm = regXm mi.xm := regXm_eq _
  have hym : ym = regYm mi.ym := regYm_eq _
  have hxa : xa = regXa ai.xa := regXa_eq _
  have hya : ya = regYa ai.ya := regYa_eq _
  have hbeside {c mul alu : Compute} {fm : MulFlags} {fa : AluFlags}
      (hc : evalCompute c env p = (evalCompute mul env p).beside (evalCompute alu env p))
      (hm : MulOnly (evalCompute mul env p) fm) (ha : AluOnly (evalCompute alu env p) fa)
      (hd : ∀ n ∈ destRegs mul, n ∉ destRegs alu) : beside c mul alu := by
    have h := apply_beside p hm ha (by simpa only [evalCompute_regs] using hd)
    simp only [evalCompute_regs, ← hc] at h
    exact h
  have hone (n : RegNum) (h : n ∈ [rm]) : n ∉ [ra] := by
    obtain rfl := List.mem_singleton.mp h
    simpa using hma
  have htwo (n : RegNum) (h : n ∈ [rm]) : n ∉ [ra, rs] := by
    obtain rfl := List.mem_singleton.mp h
    simp [hma, hms]
  rw [hxm, hym, hxa, hya]
  refine ⟨fun f hf => ?fixed, fun f hf => ?float, ?abs, ?dualFix, ?dualFlt⟩
  case fixed =>
    have hop : mfFix f.1 = f.2 := by
      simp only [fixOps, List.mem_cons, List.not_mem_nil, or_false] at hf
      rcases hf with rfl | rfl | rfl <;> rfl
    rw [← hop]
    exact ⟨hbeside rfl (mulOnly_toRn ..) (aluOnly_result ..) hone, hbeside rfl (mulOnly_toRn ..) (aluOnly_result ..)
        hone,
      hbeside rfl (mulOnly_toRn ..) (aluOnly_result ..) hone, hbeside rfl (mulOnly_toMr ..) (aluOnly_result ..) nofun,
      hbeside rfl (mulOnly_toMr ..) (aluOnly_result ..) nofun⟩
  case float =>
    have hop : mfFlt f.1 = f.2 := by
      simp only [fltOps, List.mem_cons, List.not_mem_nil, or_false] at hf
      rcases hf with rfl | rfl | rfl | rfl | rfl | rfl <;> rfl
    rw [← hop]
    exact hbeside rfl (mulOnly_float ..) (aluOnly_result ..) hone
  case abs => exact hbeside rfl (mulOnly_float ..) (aluOnly_result ..) hone
  case dualFix => exact hbeside rfl (mulOnly_toRn ..) (aluOnly_dual ..) htwo
  case dualFlt => exact hbeside rfl (mulOnly_float ..) (aluOnly_dual ..) htwo

/-! ### The dual add and subtract (R532, R533) -/

/-- An element after the two results of a dual add and subtract. -/
theorem apply_dualResult (p : Pe) (ra rs : RegNum) (o : DualOut) :
    p.apply (dualResult ra rs o) = withAlu { p with rf := (p.rf.set ra o.sum).set rs o.diff } o.flags := by
  simp [Pe.apply, dualResult, withAlu, PeResult.none, PeResult.astat, PeResult.sticky]

theorem addOut_sub32 (mode1 x y : Word) :
    addOut mode1 (add32 x (~~~y) true) = ⟨toFx (sumOut mode1 (x.toInt - y.toInt)),
      sumFlags mode1 (x.toInt - y.toInt) (decide (y.toNat ≤ x.toNat))⟩ := by
  have hy := y.isLt
  refine addOut_add32 ?_ (decide_eq_decide.mpr ?_)
  · simp only [wideSum, toInt_not_eq, Bool.toNat_true]
    omega
  · rw [toNat_not_eq, Bool.toNat_true]
    omega

theorem dualFixed_eq (mode1 x y : Word) :
    dualFixed mode1 x y =
      let f := sumFlags mode1 (x.toInt + y.toInt) (decide (2 ^ 32 ≤ x.toNat + y.toNat))
      let g := sumFlags mode1 (x.toInt - y.toInt) (decide (y.toNat ≤ x.toNat))
      ⟨toFx (sumOut mode1 (x.toInt + y.toInt)), toFx (sumOut mode1 (x.toInt - y.toInt)),
        { az := f.az || g.az, au := false, an := f.an || g.an, av := f.av || g.av, ac := f.ac || g.ac, as := false,
          ai := false, af := false }⟩ := by
  have hadd : addOut mode1 (add32 x y false) = ⟨toFx (sumOut mode1 (x.toInt + y.toInt)),
      sumFlags mode1 (x.toInt + y.toInt) (decide (2 ^ 32 ≤ x.toNat + y.toNat))⟩ :=
    addOut_add32 (by simp [wideSum]) (by simp)
  unfold dualFixed
  rw [hadd, addOut_sub32]

/-- The sticky bits floating-point ALU flags set. -/
theorem sticky_floating_getLsbD {f : AluFlags} (h : f.floating = true) (k : Nat) :
    f.sticky.getLsbD k = (k == 0 && f.au || k == 1 && f.av || k == 5 && f.ai) := by
  unfold AluFlags.sticky
  rw [h]
  simp only [BitVec.getLsbD_or, bitWord_getLsbD (show 0 < 32 by decide), bitWord_getLsbD (show 1 < 32 by decide),
    bitWord_getLsbD (show 2 < 32 by decide), bitWord_getLsbD (show 5 < 32 by decide)]
  simp

/-- Each sum sets its sticky bits. -/
theorem dualFloat_sticky (env : Env) (a b : DataWord) :
    (dualFloat env a b).flags.sticky =
      (fadd env a b false false false).flags.sticky ||| (fadd env a b true false false).flags.sticky := by
  ext k hk
  rw [BitVec.getElem_or, ← BitVec.getLsbD_eq_getElem, ← BitVec.getLsbD_eq_getElem, ← BitVec.getLsbD_eq_getElem,
    sticky_floating_getLsbD (fadd_floating ..), sticky_floating_getLsbD (fadd_floating ..),
    sticky_floating_getLsbD (f := (dualFloat env a b).flags) rfl]
  unfold dualFloat
  simp only [Bool.and_or_distrib_left]
  ac_rfl

/-- An element after a floating-point ALU result. -/
theorem apply_fltResult (p : Pe) (rn : RegNum) (o : AluOut) : p.apply (aluResult rn o) = fltTo p rn o.value o.flags :=
    by
  simp [Pe.apply, aluResult, fltTo, withAlu, PeResult.none, PeResult.astat, PeResult.sticky]

/-- Settles O6. -/
theorem dualAddSubtract : Obligations.DualAddSubtract := by
  intro s ra rs rx ry hne
  refine ⟨?fixed, fun env p => ?float⟩
  case fixed =>
    refine exec_onElements (i := .dualFix ra rs rx ry) rfl (by simp [destRegs, Instr.compute, hne]) fun e p => ?_
    refine (apply_dualResult p ra rs (dualFixed s.mode1 (p.fx rx) (p.fx ry))).trans ?_
    rw [dualFixed_eq]
  case float =>
    have hq : p.apply (evalCompute (.dualFlt ra rs rx ry) env p) = _ := apply_dualResult p ra rs (dualFloat env
        p.rf[rx] p.rf[ry])
    have hqa : p.apply (evalCompute (.flt2 .add ra rx ry) env p) = _ :=
      apply_fltResult p ra (fadd env p.rf[rx] p.rf[ry] false false false)
    have hqs : p.apply (evalCompute (.flt2 .sub rs rx ry) env p) = _ :=
      apply_fltResult p rs (fadd env p.rf[rx] p.rf[ry] true false false)
    dsimp only
    rw [hq, hqa, hqs]
    have hbit (f : AluFlags) (k : Nat) := AluFlags.into_getLsbD f p.astat k
    refine ⟨?sum, ?diff, fun n h h' => ?others, fun k hk => ?bits, fun h => ?negative, ?ac, ?as, ?af, fun k h h' =>
        ?rest, ?stky,
      rfl, rfl, rfl⟩
    case sum => simp [withAlu, fltTo, Fin.val_inj, hne.symm]; rfl
    case diff => simp [withAlu, fltTo]; rfl
    case others => simp [withAlu, get_set_ne _ _ h, get_set_ne _ _ h']
    case bits =>
      simp only [List.mem_cons, List.not_mem_nil, or_false] at hk
      rcases hk with rfl | rfl | rfl <;> simp only [withAlu, fltTo, hbit] <;> rfl
    case negative =>
      simp only [withAlu, hbit] at h
      simp only [withAlu, fltTo, anOf, hbit]
      exact if_neg (Bool.not_eq_true _ ▸ h)
    case ac => simp only [withAlu, acOf, hbit]; rfl
    case as => simp only [withAlu, hbit]; rfl
    case af => simp only [withAlu, afOf, hbit]; rfl
    case rest =>
      simp only [withAlu, hbit]
      simp [show k ≠ 0 by omega, show k ≠ 1 by omega, show k ≠ 2 by omega, show k ≠ 3 by omega, show k ≠ 4 by omega,
        show k ≠ 5 by omega, h']
    case stky =>
      simp only [withAlu, fltTo, dualFloat_sticky]
      ext k hk
      simp only [BitVec.getElem_or]
      cases p.stky[k] <;> simp

end Sys2Proof.Machine
end

section
/-! `fround` and `roundInt` as roundings of rational numbers (45_alu_float.md R401, R418). -/

-- One proof at a time: each thread that elaborates beside another reserves a gigabyte of the check's memory.
set_option Elab.async false

namespace Sys2Proof.Machine

/-! ### An integer divided by a power of two -/

/-- A quotient by its integer part and the rest. -/
theorem div_pow_eq (m d : Nat) :
    (m : ℚ) / 2 ^ d = (m / 2 ^ d : Nat) + ((m % 2 ^ d : Nat) : ℚ) / 2 ^ d := by
  have hm : (m : ℚ) = (m / 2 ^ d : Nat) * 2 ^ d + (m % 2 ^ d : Nat) := by exact_mod_cast (Nat.div_add_mod' m (2 ^
      d)).symm
  rw [eq_comm, ← mul_div_cancel_right₀ (((m / 2 ^ d : Nat)) : ℚ) (by positivity : (2 : ℚ) ^ d ≠ 0), ← add_div, ← hm]

theorem rest_nonneg (m d : Nat) : 0 ≤ ((m % 2 ^ d : Nat) : ℚ) / 2 ^ d := by positivity

theorem rest_lt_one (m d : Nat) : ((m % 2 ^ d : Nat) : ℚ) / 2 ^ d < 1 := by
  rw [div_lt_one (by positivity)]
  exact_mod_cast Nat.mod_lt m (Nat.two_pow_pos d)

theorem div_pow_floor (m d : Nat) : ((m / 2 ^ d : Nat) : ℚ) ≤ (m : ℚ) / 2 ^ d ∧ (m : ℚ) / 2 ^ d < (m / 2 ^ d : Nat) + 1
    := by
  have h0 := rest_nonneg m d
  have h1 := rest_lt_one m d
  rw [div_pow_eq]
  constructor <;> linarith

/-- `roundNearest` goes to the nearest integer, an even one on a tie. -/
theorem roundNearest_nearest (m d : Nat) :
    |(m : ℚ) / 2 ^ d - roundNearest m d| ≤ 1 / 2 ∧
      (|(m : ℚ) / 2 ^ d - roundNearest m d| = 1 / 2 → roundNearest m d % 2 = 0) := by
  have h0 := rest_nonneg m d
  have h1 := rest_lt_one m d
  have hp : (0 : ℚ) < 2 ^ d := by positivity
  have hlt : (1 / 2 < ((m % 2 ^ d : Nat) : ℚ) / 2 ^ d) ↔ 2 ^ d < 2 * (m % 2 ^ d) := by
    rw [lt_div_iff₀ hp, ← Nat.cast_lt (α := ℚ)]
    push_cast
    constructor <;> intro h <;> linarith
  have heq : (((m % 2 ^ d : Nat) : ℚ) / 2 ^ d = 1 / 2) ↔ 2 * (m % 2 ^ d) = 2 ^ d := by
    rw [div_eq_iff hp.ne', ← Nat.cast_inj (R := ℚ)]
    push_cast
    constructor <;> intro h <;> linarith
  rw [div_pow_eq]
  generalize ((m % 2 ^ d : Nat) : ℚ) / 2 ^ d = y at *
  unfold roundNearest
  dsimp only
  split
  next hup =>
    have hy : 1 / 2 ≤ y := hup.elim (fun h => (hlt.mpr h).le) fun h => (heq.mpr h.1).ge
    push_cast
    rw [show (↑(m / 2 ^ d) : ℚ) + y - (↑(m / 2 ^ d) + 1) = y - 1 by ring, abs_of_nonpos (by linarith)]
    refine ⟨by linarith, fun h => ?_⟩
    have h2 := heq.mp (by linarith)
    omega
  next hdown =>
    have hy : y ≤ 1 / 2 := not_lt.mp fun h => hdown (.inl (hlt.mp h))
    rw [add_sub_cancel_left, abs_of_nonneg h0]
    refine ⟨hy, fun h => ?_⟩
    have h2 := heq.mp h
    omega

/-! ### Rounding to a float (R401) -/

theorem fzero_eq (s : Bool) : fzero s = BitVec.ofBool s ++ 0#39 := rfl

theorem finf_eq (s : Bool) : finf s = BitVec.ofBool s ++ 0x7F80000000#39 := rfl

theorem foverflow_eq (mode1 : Word) (s : Bool) (p : Nat) : foverflow mode1 s p = overflowResult mode1 s p := by
  unfold foverflow overflowResult
  split <;> rfl

/-- The significand of `p` fraction bits that `fround` narrows a number to. -/
def narrowed (mode1 : Word) (sig p : Nat) : Nat :=
  if Nat.log2 sig ≤ p then sig * 2 ^ (p - Nat.log2 sig)
  else if truncMode mode1 then sig / 2 ^ (Nat.log2 sig - p) else roundNearest sig (Nat.log2 sig - p)

/-- What a number in its binade is narrowed to. -/
theorem narrowed_spec (mode1 : Word) {sig : Nat} (unit : Int) (p : Nat) :
    let q : ℚ := (sig : ℚ) * 2 ^ unit / 2 ^ ((Nat.log2 sig : Int) + unit - p)
    if truncMode mode1 then (narrowed mode1 sig p : ℚ) ≤ q ∧ q < narrowed mode1 sig p + 1
    else |q - narrowed mode1 sig p| ≤ 1 / 2 ∧ (|q - narrowed mode1 sig p| = 1 / 2 → narrowed mode1 sig p % 2 = 0) := by
  have hq : (sig : ℚ) * 2 ^ unit / 2 ^ ((Nat.log2 sig : Int) + unit - p) = sig * 2 ^ ((p : Int) - Nat.log2 sig) := by
    rw [mul_div_assoc, ← zpow_sub₀ two_ne_zero]
    congr 2
    ring
  dsimp only
  rw [hq]
  unfold narrowed
  by_cases hk : Nat.log2 sig ≤ p
  · have hn : (sig : ℚ) * 2 ^ ((p : Int) - Nat.log2 sig) = (sig * 2 ^ (p - Nat.log2 sig) : Nat) := by
      push_cast
      rw [← zpow_natCast, Nat.cast_sub hk]
    rw [if_pos hk, hn]
    split
    · exact ⟨le_rfl, by linarith⟩
    · rw [sub_self, abs_zero]
      norm_num
  · have hn : (sig : ℚ) * 2 ^ ((p : Int) - Nat.log2 sig) = sig / 2 ^ (Nat.log2 sig - p) := by
      rw [div_eq_mul_inv, ← zpow_natCast, ← zpow_neg, Nat.cast_sub (by omega)]
      congr 2
      ring
    rw [if_neg hk, hn]
    split
    · exact div_pow_floor sig _
    · exact roundNearest_nearest sig _

/-- What `fround` answers for the significand `n`, with its carry taken, and the exponent `e`. -/
def packed (mode1 : Word) (s : Bool) (p n : Nat) (e : Int) : Rounded :=
  if e > 127 then ⟨foverflow mode1 s p, true, false⟩
  else if e < -126 then ⟨fzero s, false, true⟩
  else ⟨fpack40 s (e + 127).toNat ((n - 2 ^ p) * 2 ^ (31 - p)), false, false⟩

theorem fround_eq (mode1 : Word) (s : Bool) (sig : Nat) (unit : Int) (p : Nat) :
    fround mode1 s sig unit p =
      packed mode1 s p (if decide (narrowed mode1 sig p = 2 ^ (p + 1)) then 2 ^ p else narrowed mode1 sig p)
        ((Nat.log2 sig : Int) + unit + if decide (narrowed mode1 sig p = 2 ^ (p + 1)) then 1 else 0) := rfl

theorem packed_spec (mode1 : Word) (s : Bool) (p n : Nat) (e : Int) :
    (packed mode1 s p n e).overflow = decide (127 < e) ∧ (packed mode1 s p n e).underflow = decide (e < -126) ∧
      (packed mode1 s p n e).value =
        if 127 < e then overflowResult mode1 s p
        else if e < -126 then BitVec.ofBool s ++ 0#39
        else BitVec.ofBool s ++ (BitVec.ofNat 8 (e + 127).toNat ++ BitVec.ofNat 31 ((n - 2 ^ p) * 2 ^ (31 - p))) := by
  unfold packed
  by_cases h : 127 < e
  · rw [if_pos h, if_pos h, foverflow_eq]
    exact ⟨(decide_eq_true h).symm, (decide_eq_false (by omega)).symm, rfl⟩
  · rw [if_neg h, if_neg h]
    by_cases h' : e < -126
    · rw [if_pos h', if_pos h', fzero_eq]
      exact ⟨(decide_eq_false h).symm, (decide_eq_true h').symm, rfl⟩
    · rw [if_neg h', if_neg h']
      exact ⟨(decide_eq_false h).symm, (decide_eq_false h').symm, rfl⟩

/-- `fround` rounds its number once. -/
theorem fround_roundsTo (mode1 : Word) (s : Bool) {sig : Nat} (h : sig ≠ 0) (unit : Int) (p : Nat) :
    roundsTo mode1 s ((sig : ℚ) * 2 ^ unit) p (fround mode1 s sig unit p).value (fround mode1 s sig unit p).overflow
      (fround mode1 s sig unit p).underflow := by
  have hlow : ((2 : ℚ) ^ Nat.log2 sig) ≤ sig := by exact_mod_cast Nat.log2_self_le h
  have hhigh : (sig : ℚ) < 2 ^ (Nat.log2 sig + 1) := by exact_mod_cast Nat.lt_log2_self
  have hu : (0 : ℚ) < 2 ^ unit := by positivity
  refine ⟨(Nat.log2 sig : Int) + unit, narrowed mode1 sig p, ?low, ?high, narrowed_spec mode1 unit p, ?rest⟩
  case low =>
    rw [zpow_add₀ two_ne_zero, zpow_natCast]
    exact mul_le_mul_of_nonneg_right hlow hu.le
  case high =>
    rw [add_right_comm, zpow_add₀ two_ne_zero]
    refine mul_lt_mul_of_pos_right ?_ hu
    exact_mod_cast hhigh
  case rest =>
    have he : (if decide (narrowed mode1 sig p = 2 ^ (p + 1)) = true then (Nat.log2 sig : Int) + unit + 1
        else (Nat.log2 sig : Int) + unit) =
        (Nat.log2 sig : Int) + unit + if decide (narrowed mode1 sig p = 2 ^ (p + 1)) = true then 1 else 0 := by
      split <;> omega
    rw [he, fround_eq]
    exact packed_spec ..

/-! ### Signs -/

theorem sign_append (s : Bool) (x : BitVec 39) : fsign (BitVec.ofBool s ++ x) = s := by
  unfold fsign
  rw [BitVec.getLsbD_append]
  simp

theorem fpack40_sign (s : Bool) (e f : Nat) : fsign (fpack40 s e f) = s := sign_append s _

theorem packed_sign (mode1 : Word) (s : Bool) (p n : Nat) (e : Int) : fsign (packed mode1 s p n e).value = s := by
  unfold packed
  split_ifs
  · unfold foverflow
    split <;> exact fpack40_sign ..
  · exact fpack40_sign ..
  · exact fpack40_sign ..

theorem fround_sign (mode1 : Word) (s : Bool) (sig : Nat) (unit : Int) (p : Nat) :
    fsign (fround mode1 s sig unit p).value = s := packed_sign ..

/-! ### The floating-point product (R484) -/

theorem apply_fmulResult (p : Pe) (rn : RegNum) (o : FMulOut) :
    p.apply (fmulResult rn o) = withMul { p with rf := p.rf.set rn o.value } o.flags := by
  simp [Pe.apply, fmulResult, withMul, PeResult.none, PeResult.astat, PeResult.sticky]

theorem fmulOut_of_sign {r : DataWord} {s : Bool} (h : fsign r = s) (mv mu : Bool) :
    fmulOut r mv mu = ⟨r, { mn := s, mv := mv, mu := mu, mi := false, floating := true }⟩ := by
  rw [fmulOut, h]

section
variable {env : Env} {a b : DataWord}

theorem fmul_invalid (h : fclass a = .nan ∨ fclass b = .nan ∨ (fclass a = .inf ∧ fclass b = .zero) ∨
    (fclass a = .zero ∧ fclass b = .inf)) : fmul env a b = fmulNan env := by
  unfold fmul
  dsimp only
  by_cases hn : fclass a = .nan ∨ fclass b = .nan
  · rw [if_pos hn]
  · rw [if_neg hn, if_pos (by tauto)]

theorem fmul_inf (h : (fclass a = .inf ∧ fclass b = .inf) ∨ (fclass a = .inf ∧ fclass b = .normal) ∨
    (fclass a = .normal ∧ fclass b = .inf)) :
    fmul env a b = fmulOut (finf (fsign a != fsign b)) false false := by
  unfold fmul
  rcases h with ⟨h, h'⟩ | ⟨h, h'⟩ | ⟨h, h'⟩ <;> rw [h, h'] <;> rfl

theorem fmul_zero (h : (fclass a = .zero ∧ fclass b = .zero) ∨ (fclass a = .zero ∧ fclass b = .normal) ∨
    (fclass a = .normal ∧ fclass b = .zero)) :
    fmul env a b = fmulOut (fzero (fsign a != fsign b)) false false := by
  unfold fmul
  rcases h with ⟨h, h'⟩ | ⟨h, h'⟩ | ⟨h, h'⟩ <;> rw [h, h'] <;> rfl

/-- The product of two Normals, rounded once. -/
theorem fmul_normal (h : fclass a = .normal) (h' : fclass b = .normal) :
    ∃ r mv mu, roundsTo env.mode1 (fsign a != fsign b) (|floatValue a| * |floatValue b|) (fracBits env.mode1) r mv mu ∧
      fmul env a b = ⟨r, { mn := fsign a != fsign b, mv := mv, mu := mu, mi := false, floating := true }⟩ := by
  have hsig : fsig a * fsig b ≠ 0 := by
    rw [fsig_of_normal h, fsig_of_normal h']
    positivity
  have hprod : |floatValue a| * |floatValue b| = ((fsig a * fsig b : Nat) : ℚ) * 2 ^ (funit a + funit b) := by
    rw [abs_floatValue, abs_floatValue, fmagnitude_eq_fsig (.inl h), fmagnitude_eq_fsig (.inl h'),
      zpow_add₀ two_ne_zero]
    push_cast
    ring
  rw [hprod]
  refine ⟨_, _, _, fround_roundsTo env.mode1 (fsign a != fsign b) hsig (funit a + funit b) (fracBits env.mode1), ?_⟩
  rw [← fmulOut_of_sign (fround_sign ..)]
  unfold fmul
  rw [h, h']
  rfl

end

/-- Settles O13, by the classes of the operands. -/
theorem floatMultiply : Obligations.FloatMultiply := by
  intro env p rn rx ry a b q sign writes is
  have hwrites {o : FMulOut} (ho : fmul env a b = o) : q = withMul { p with rf := p.rf.set rn o.value } o.flags := by
    rw [← ho]
    exact apply_fmulResult p rn _
  refine ⟨fun h => ⟨_, hwrites (fmul_invalid h)⟩, fun h => ?inf, fun h => ?zero, fun h => ?normal⟩
  case inf => exact hwrites ((fmul_inf h).trans (fmulOut_of_sign (fpack40_sign ..) _ _))
  case zero => exact hwrites ((fmul_zero h).trans (fmulOut_of_sign (fpack40_sign ..) _ _))
  case normal =>
    obtain ⟨r, mv, mu, hr, ho⟩ := fmul_normal (env := env) h.1 h.2
    exact ⟨r, mv, mu, hr, hwrites ho⟩

end Sys2Proof.Machine
end

section
/-! The floating-point ALU (45_alu_float.md): NaN operands (R402, R403), and the operations that choose or change a sign
(R411 to R413, R427 to R430). -/

-- One proof at a time: each thread that elaborates beside another reserves a gigabyte of the check's memory.
set_option Elab.async false

namespace Sys2Proof.Machine

/-! ### Invalid results -/

/-- An all ones result with AI, AN whatever it is. -/
def IsInvalid (o : AluOut) (overflow : Bool) : Prop :=
  ∃ negative : Bool, o = ⟨nan1,
    { az := false, au := false, an := negative, av := overflow, ac := false, as := false, ai := true, af := true }⟩

theorem invalidOut_of {p : Pe} {rn : RegNum} {o : AluOut} {overflow : Bool} (h : IsInvalid o overflow) :
    invalidOut p (p.apply (aluResult rn o)) rn overflow := by
  obtain ⟨n, rfl⟩ := h
  exact ⟨n, apply_fltResult p rn _⟩

theorem anOf_fltResult (p : Pe) (rn : RegNum) (o : AluOut) : anOf (p.apply (aluResult rn o)).astat = o.flags.an := by
  rw [apply_fltResult]
  unfold fltTo withAlu anOf
  rw [AluFlags.into_getLsbD]
  simp

theorem nanOut_invalid (env : Env) : IsInvalid (nanOut env) false := ⟨nanSign env, rfl⟩

theorem absOut_invalid {o : AluOut} {overflow : Bool} (h : IsInvalid o overflow) : IsInvalid (absOut o) overflow := by
  obtain ⟨n, rfl⟩ := h
  exact ⟨false, rfl⟩

theorem absOut_an (o : AluOut) : (absOut o).flags.an = false := by
  unfold absOut
  split <;> rfl

theorem fneg_exp (v : DataWord) : fexp (fneg v) = fexp v := by
  unfold fexp fneg
  rw [BitVec.extractLsb'_xor, show (0x8000000000#40).extractLsb' 31 8 = 0#8 by decide, BitVec.xor_zero]

theorem fneg_frac (v : DataWord) : ffrac (fneg v) = ffrac v := by
  unfold ffrac fneg
  rw [BitVec.extractLsb'_xor, show (0x8000000000#40).extractLsb' 0 31 = 0#31 by decide, BitVec.xor_zero]

theorem fneg_class (v : DataWord) : fclass (fneg v) = fclass v := by
  unfold fclass
  rw [fneg_exp, fneg_frac]

theorem fadd_nan (env : Env) {a b : DataWord} (h : fclass a = .nan ∨ fclass b = .nan) (negB half absr : Bool) :
    IsInvalid (fadd env a b negB half absr) false := by
  have hb : fclass (if negB then fneg b else b) = fclass b := by
    split
    · exact fneg_class b
    · rfl
  have hcore : faddCore env a (if negB then fneg b else b) half = nanOut env := by
    unfold faddCore
    rw [hb, if_pos h]
  unfold fadd
  rw [hcore]
  dsimp only
  split
  · exact absOut_invalid (nanOut_invalid env)
  · exact nanOut_invalid env

theorem onNumbers_nan {env : Env} {a b : DataWord} (h : fclass a = .nan ∨ fclass b = .nan)
    (f : DataWord → DataWord → DataWord) : IsInvalid (onNumbers env a b f) false := by
  unfold onNumbers
  rw [if_pos h]
  exact nanOut_invalid env

theorem ftoi_nan (env : Env) {v : DataWord} (h : fclass v = .nan) (k : Int) (mode : Rounding) :
    IsInvalid (ftoi env v k mode) false := by
  unfold ftoi
  rw [h]
  exact nanOut_invalid env

/-- The operations that read both operands as floating-point numbers. -/
theorem fltOp2_nan_either (env : Env) {a b : DataWord} (h : fclass a = .nan ∨ fclass b = .nan) {op : FltOp2}
    (hop : op ∈ [FltOp2.add, .sub, .absAdd, .absSub, .avg, .copysign, .min, .max, .clip]) :
    IsInvalid (fltOp2 op env a b) false := by
  simp only [List.mem_cons, List.not_mem_nil, or_false] at hop
  rcases hop with rfl | rfl | rfl | rfl | rfl | rfl | rfl | rfl | rfl
  · exact fadd_nan env h false false false
  · exact fadd_nan env h true false false
  · exact fadd_nan env h false false true
  · exact fadd_nan env h true false true
  · exact fadd_nan env h false true false
  · unfold fltOp2
    dsimp only
    rw [if_pos h]
    exact nanOut_invalid env
  · exact onNumbers_nan h _
  · exact onNumbers_nan h _
  · exact onNumbers_nan h _

theorem fltOp2_nan (env : Env) {a : DataWord} (h : fclass a = .nan) (b : DataWord) {op : FltOp2} (hop : op ≠ .floatBy) :
    IsInvalid (fltOp2 op env a b) false := by
  cases op
  case floatBy => exact absurd rfl hop
  case scalb =>
    unfold fltOp2 scalb
    rw [h]
    exact nanOut_invalid env
  case fixBy => exact ftoi_nan env h ..
  case truncBy => exact ftoi_nan env h ..
  all_goals exact fltOp2_nan_either env (.inl h) (by simp)

theorem fltOp1_nan (env : Env) {v : DataWord} (h : fclass v = .nan) {op : FltOp1} (hop : op ≠ .float) :
    IsInvalid (fltOp1 op env v) false := by
  cases op
  case float => exact absurd rfl hop
  case fix => exact ftoi_nan env h ..
  case trunc => exact ftoi_nan env h ..
  case neg => exact ⟨_, if_pos h⟩
  case pass => exact ⟨_, if_pos h⟩
  case abs => exact ⟨_, if_pos h⟩
  case rnd =>
    unfold fltOp1 frnd
    rw [h]
    exact nanOut_invalid env
  case mant =>
    unfold fltOp1 mant
    rw [h]
    exact ⟨_, rfl⟩
  case logb =>
    unfold fltOp1 logb
    rw [h]
    exact nanOut_invalid env
  case recips =>
    unfold fltOp1 recips
    rw [h]
    exact ⟨_, rfl⟩
  case rsqrts =>
    unfold fltOp1 rsqrts
    rw [h]
    exact ⟨_, rfl⟩

/-- Settles O7. -/
theorem nanInNanOut : Obligations.NanInNanOut := by
  intro env p rn rx ry nan two one
  refine ⟨fun h op hop => invalidOut_of (fltOp2_nan env h _ hop),
    fun h op hop => invalidOut_of (fltOp2_nan_either env (.inr h) hop),
    fun h op hop => invalidOut_of (fltOp1_nan env h hop), fun h op hop => ?absr, fun h => ⟨fun op hop => ?cleared,
        ?recips⟩,
    fun h => ?compare⟩
  case absr =>
    simp only [List.mem_cons, List.not_mem_nil, or_false] at hop
    rcases hop with rfl | rfl <;> exact (anOf_fltResult p rn _).trans (absOut_an _)
  case cleared =>
    refine (anOf_fltResult p rn _).trans ?_
    simp only [List.mem_cons, List.not_mem_nil, or_false] at hop
    rcases hop with rfl | rfl | rfl
    · unfold fltOp1 fabsOut
      dsimp only
      rw [if_pos h]
    · unfold fltOp1 mant
      rw [h]
    · unfold fltOp1 rsqrts
      rw [h]
      rfl
  case recips =>
    refine (anOf_fltResult p rn _).trans ?_
    unfold fltOp1 recips
    rw [h]
    rfl
  case compare =>
    refine ⟨Config.freeBit (.compAz env.e) env.clock, Config.freeBit (.aluAn env.e) env.clock, ?_⟩
    refine (apply_compResult p (compareFloat env p.rf[rx] p.rf[ry])).trans ?_
    unfold compareFloat
    rw [if_pos h]
    rfl

/-! ### Signs (R411 to R413, R427) -/

/-- An operand of the sign `s`, a denormal counting as Zero. -/
def resigned (s : Bool) (v : DataWord) : DataWord :=
  BitVec.ofBool s ++ (if v.extractLsb' 31 8 = 0#8 then 0#39 else v.extractLsb' 0 39)

theorem exp_field_zero {v : DataWord} : v.extractLsb' 31 8 = 0#8 ↔ fclass v = .zero := by
  rw [fclass_zero, ← BitVec.toNat_inj]
  rfl

theorem resigned_of_zero {v : DataWord} (h : fclass v = .zero) (s : Bool) : resigned s v = fzero s := by
  rw [resigned, if_pos (exp_field_zero.mpr h), fzero_eq]

theorem resigned_of_ne {v : DataWord} (h : fclass v ≠ .zero) (s : Bool) :
    resigned s v = BitVec.ofBool s ++ v.extractLsb' 0 39 := by
  rw [resigned, if_neg (mt exp_field_zero.mp h)]

/-- An operand is its sign above its magnitude. -/
theorem sign_magnitude (v : DataWord) : BitVec.ofBool (fsign v) ++ v.extractLsb' 0 39 = v := by
  ext i hi
  rw [BitVec.getElem_append]
  split
  · simp [BitVec.getLsbD_eq_getElem hi]
  · obtain rfl : i = 39 := by omega
    simp [fsign]

theorem flush_eq (v : DataWord) : flush v = resigned (fsign v) v := by
  unfold flush
  split
  next h => rw [resigned_of_zero h]
  next h => rw [resigned_of_ne h, sign_magnitude]

theorem magnitude_append (s : Bool) (x : BitVec 39) : (BitVec.ofBool s ++ x).extractLsb' 0 39 = x :=
  BitVec.extractLsb'_append_eq_right

theorem resigned_magnitude (s t : Bool) (v : DataWord) :
    BitVec.ofBool t ++ (resigned s v).extractLsb' 0 39 = resigned t v := by
  unfold resigned
  rw [magnitude_append]

theorem fneg_append (s : Bool) (x : BitVec 39) : fneg (BitVec.ofBool s ++ x) = BitVec.ofBool (!s) ++ x := by
  unfold fneg
  rw [show (0x8000000000#40 : DataWord) = BitVec.ofBool true ++ 0#39 from rfl, BitVec.xor_append, BitVec.xor_zero]
  cases s <;> rfl

theorem fabs_append (s : Bool) (x : BitVec 39) : fabs (BitVec.ofBool s ++ x) = BitVec.ofBool false ++ x := by
  unfold fabs
  rw [show (0x7FFFFFFFFF#40 : DataWord) = BitVec.ofBool false ++ BitVec.allOnes 39 by decide, BitVec.and_append,
    BitVec.and_allOnes]
  cases s <;> rfl

theorem fneg_flush (v : DataWord) : fneg (flush v) = resigned (!fsign v) v := by
  rw [flush_eq]
  exact fneg_append _ _

theorem fabs_flush (v : DataWord) : fabs (flush v) = resigned false v := by
  rw [flush_eq]
  exact fabs_append _ _

theorem withSign_flush (s : Bool) (v : DataWord) : withSign s (flush v) = resigned s v := by
  rw [flush_eq]
  exact resigned_magnitude _ _ _

theorem resigned_sign (s : Bool) (v : DataWord) : fsign (resigned s v) = s := sign_append s _

theorem fltFlags_eq (r : DataWord) : fltFlags r = resultFlags r false false := by
  unfold fltFlags resultFlags
  rw [decide_eq_decide.mpr exp_field_zero.symm]
  rfl

/-! ### The choice by value (R428 to R430) -/

theorem fkey_of_zero {v : DataWord} (h : fclass v = .zero) : fkey v = 0 := by
  rw [fkey_eq, fmagKey_of_zero h]
  simp

theorem fkey_flush (v : DataWord) : fkey (flush v) = fkey v := by
  unfold flush
  split
  next h => rw [fkey_of_zero h, fkey_of_zero (fclass_zero.mpr (by cases fsign v <;> decide))]
  next h => rfl

theorem fsign_flush (v : DataWord) : fsign (flush v) = fsign v := by rw [flush_eq, resigned_sign]

theorem natAbs_fkey (v : DataWord) : (fkey v).natAbs = fmagKey v := by
  rw [fkey_eq, Int.natAbs_mul]
  cases fsign v <;> simp

/-- Two operands of the same value are alike but for the signs of two Zeros. -/
theorem resigned_congr {a b : DataWord} (h : fkey a = fkey b) (s : Bool) : resigned s a = resigned s b := by
  have hk : fmagKey a = fmagKey b := by rw [← natAbs_fkey, ← natAbs_fkey, h]
  by_cases ha : fclass a = .zero
  · have hb : fclass b = .zero := by
      by_contra hb
      have := fmagKey_pos.mpr hb
      rw [← hk, fmagKey_of_zero ha] at this
      omega
    rw [resigned_of_zero ha, resigned_of_zero hb]
  · have hb : fclass b ≠ .zero := fmagKey_pos.mp (hk ▸ fmagKey_pos.mpr ha)
    rw [resigned_of_ne ha, resigned_of_ne hb]
    congr 1
    apply BitVec.eq_of_toNat_eq
    rwa [magnitude_eq, magnitude_eq, ← fmagKey_of_ne ha, ← fmagKey_of_ne hb]

/-- Two operands of the same value have the same sign unless both are Zeros. -/
theorem sign_congr {a b : DataWord} (h : fkey a = fkey b) : fsign a = fsign b ∨ fclass a = .zero := by
  by_contra hn
  obtain ⟨hs, hz⟩ := not_or.mp hn
  have hpos := fmagKey_pos.mpr hz
  have hk : fmagKey a = fmagKey b := by rw [← natAbs_fkey, ← natAbs_fkey, h]
  rw [fkey_eq, fkey_eq, ← hk] at h
  cases hsa : fsign a <;> cases hsb : fsign b <;> simp [hsa, hsb] at hs h <;> omega

/-- MIN of flushed operands, by value. -/
theorem fmin_flush (a b : DataWord) :
    fmin (flush a) (flush b) =
      if floatValue a < floatValue b then resigned (fsign a) a
      else if floatValue b < floatValue a then resigned (fsign b) b else resigned (fsign a || fsign b) a := by
  unfold fmin
  simp only [fkey_flush, fsign_flush, fkey_lt_iff, ← flush_eq]
  split_ifs with h1 h2 h3
  · rfl
  · rfl
  · have hk : fkey b = fkey a := fkey_eq_iff.mpr (le_antisymm (not_lt.mp h1) (not_lt.mp h2))
    rw [flush_eq, h3, Bool.or_true, resigned_congr hk]
  · rw [flush_eq, Bool.eq_false_iff.mpr h3, Bool.or_false]

/-- MAX of flushed operands, by value. -/
theorem fmax_flush (a b : DataWord) :
    fmax (flush a) (flush b) =
      if floatValue a < floatValue b then resigned (fsign b) b
      else if floatValue b < floatValue a then resigned (fsign a) a else resigned (fsign a && fsign b) a := by
  unfold fmax
  simp only [fkey_flush, fsign_flush, fkey_lt_iff, ← flush_eq]
  split_ifs with h1 h2 h3
  · rfl
  · rfl
  · rw [flush_eq, h3, Bool.and_true]
  · have hk : fkey b = fkey a := fkey_eq_iff.mpr (le_antisymm (not_lt.mp h1) (not_lt.mp h2))
    rw [flush_eq, Bool.eq_false_iff.mpr h3, Bool.and_false, resigned_congr hk]

theorem fclip_flush (a b : DataWord) :
    fclip (flush a) (flush b) =
      if |floatValue a| < |floatValue b| then resigned (fsign a) a else resigned (fsign a) b := by
  unfold fclip
  rw [fkey_flush, fkey_flush, natAbs_fkey, natAbs_fkey, abs_floatValue, abs_floatValue, fsign_flush, withSign_flush,
    flush_eq]
  simp only [fmagnitude_lt_iff]

/-- An operation on numbers leaves its result with its plain flags. -/
theorem apply_fltOut (p : Pe) (rn : RegNum) (r : DataWord) :
    p.apply (aluResult rn (fltOut r)) = fltTo p rn r (resultFlags r false false) := by
  rw [apply_fltResult, fltOut, fltFlags_eq]

theorem resultFlags_an {r : DataWord} {s : Bool} (h : fsign r = s) (av au : Bool) :
    resultFlags r av au = { resultFlags r av au with an := s } := by
  subst h
  rfl

/-- The absolute value of a number. -/
theorem fabsOut_number {v : DataWord} (h : fclass v ≠ .nan) :
    fabsOut v = ⟨resigned false v, { resultFlags (resigned false v) false false with as := fsign v }⟩ := by
  unfold fabsOut
  rw [if_neg h, fabs_flush, fltFlags_eq, resultFlags_an (resigned_sign false v)]

/-- Settles O8. -/
theorem floatSignOperations : Obligations.FloatSignOperations := by
  intro env p rn rx ry ha a b signed kept one two
  have hone {op : FltOp1} {r : DataWord} (h : fltOp1 op env a = fltOut r) : one op r false := by
    refine Eq.trans ?_ (apply_fltOut p rn r)
    rw [← h]
    rfl
  have htwo {op : FltOp2} {r r' : DataWord} (h : fltOp2 op env a b = fltOut r) (hr : r = r') : two op r' := by
    subst hr
    refine Eq.trans ?_ (apply_fltOut p rn r)
    rw [← h]
    rfl
  refine ⟨hone ((if_neg ha).trans (congrArg fltOut (fneg_flush a))), ?abs,
    hone ((if_neg ha).trans (congrArg fltOut (flush_eq a))), fun hb => ?both⟩
  case abs =>
    refine (apply_fltResult p rn (fabsOut a)).trans ?_
    rw [fabsOut_number (v := a) ha]
    rfl
  case both =>
    have hnan : ¬ (fclass a = .nan ∨ fclass b = .nan) := not_or.mpr ⟨ha, hb⟩
    exact ⟨htwo (if_neg hnan) (withSign_flush _ _), htwo (if_neg hnan) (fmin_flush a b), htwo (if_neg hnan) (fmax_flush
        a b),
      htwo (if_neg hnan) (fclip_flush a b)⟩

end Sys2Proof.Machine
end

section
/-! The additive floating-point operations (45_alu_float.md R404 to R409): the exact sum, rounded once. -/

-- One proof at a time: each thread that elaborates beside another reserves a gigabyte of the check's memory.
set_option Elab.async false

namespace Sys2Proof.Machine

theorem zero_or_normal {v : DataWord} (h : fclass v ≠ .nan) (h' : fclass v ≠ .inf) :
    fclass v = .normal ∨ fclass v = .zero := by
  cases hc : fclass v <;> simp_all

/-! ### The exact sum -/

/-- An operand in a unit no larger than its own. -/
theorem alignedTo_value {v : DataWord} (hv : fclass v = .normal ∨ fclass v = .zero) {low : Int}
    (h : fclass v = .normal → low ≤ funit v) : (alignedTo v low : ℚ) * 2 ^ low = floatValue v := by
  have hm : ((fsig v : ℚ) * 2 ^ (funit v - low).toNat) * 2 ^ low = fmagnitude v := by
    rw [fmagnitude_eq_fsig hv]
    rcases hv with hv | hv
    · rw [mul_assoc, ← zpow_natCast, ← zpow_add₀ two_ne_zero, Int.toNat_of_nonneg (by have := h hv; omega)]
      congr 2
      ring
    · rw [fsig_of_zero hv]
      simp
  rw [floatValue_eq, ← hm]
  unfold alignedTo
  cases fsign v <;> simp

theorem commonUnit_le {a b : DataWord} (ha : fclass a = .normal ∨ fclass a = .zero)
    (hb : fclass b = .normal ∨ fclass b = .zero) :
    (fclass a = .normal → commonUnit a b ≤ funit a) ∧ (fclass b = .normal → commonUnit a b ≤ funit b) := by
  unfold commonUnit
  rcases ha with ha | ha <;> rcases hb with hb | hb <;> simp [ha, hb]

/-- `exactSum` is the sum of the two values. -/
theorem exactSum_value {a b : DataWord} (ha : fclass a = .normal ∨ fclass a = .zero)
    (hb : fclass b = .normal ∨ fclass b = .zero) :
    (exactSum a b : ℚ) * 2 ^ commonUnit a b = floatValue a + floatValue b := by
  obtain ⟨hla, hlb⟩ := commonUnit_le ha hb
  unfold exactSum
  push_cast
  rw [add_mul, alignedTo_value ha hla, alignedTo_value hb hlb]

theorem fneg_value (v : DataWord) : floatValue (fneg v) = -floatValue v := by
  have hs : fsign (fneg v) = !fsign v := by
    rw [← sign_magnitude v, fneg_append, sign_append, sign_append]
  have hm : fmagnitude (fneg v) = fmagnitude v := by
    unfold fmagnitude funit
    rw [fneg_class, fneg_exp, fneg_frac]
  rw [floatValue_eq, floatValue_eq, hs, hm]
  cases fsign v <;> simp

theorem fneg_sign (v : DataWord) : fsign (fneg v) = !fsign v := by
  rw [← sign_magnitude v, fneg_append, sign_append, sign_append]

/-! ### The sum (R404) -/

/-- A rounded result, by its flags. -/
theorem roundedOut_eq (r : Rounded) : roundedOut r = ⟨r.value, resultFlags r.value r.overflow r.underflow⟩ := by
  unfold roundedOut
  rw [fltFlags_eq]
  rfl

/-- What the additive operations put out for the result `r`: its sign cleared if asked. -/
def sumResult (absr : Bool) (r : DataWord) (av au : Bool) : AluOut :=
  let r' : DataWord := if absr then 0#1 ++ r.extractLsb' 0 39 else r
  ⟨r', resultFlags r' av au⟩

theorem fabs_eq (v : DataWord) : fabs v = 0#1 ++ v.extractLsb' 0 39 := by
  have h := fabs_append (fsign v) (v.extractLsb' 0 39)
  rwa [sign_magnitude] at h

theorem sumResult_eq (absr : Bool) (r : DataWord) (av au : Bool) :
    (if absr then absOut ⟨r, resultFlags r av au⟩ else ⟨r, resultFlags r av au⟩) = sumResult absr r av au := by
  unfold sumResult
  cases absr
  · rfl
  · have hz : (0#1 ++ r.extractLsb' 0 39 : DataWord).extractLsb' 31 8 = r.extractLsb' 31 8 := by
      ext i hi
      rw [BitVec.getElem_extractLsb', BitVec.getElem_extractLsb', BitVec.getLsbD_append]
      simp [show 31 + i < 39 by omega]
    have hs : (0#1 ++ r.extractLsb' 0 39 : DataWord).getLsbD 39 = false := sign_append false _
    unfold absOut resultFlags
    simp only [Bool.false_eq_true, if_false, if_true, fabs_eq, hz, hs]

section
variable {env : Env} {a b : DataWord} (half absr : Bool)

/-- Two Infs of different signs. -/
theorem faddCore_opposite (ha : fclass a = .inf) (hb : fclass b = .inf) (hs : fsign a ≠ fsign b) :
    faddCore env a b half = nanOut env := by
  unfold faddCore
  rw [if_neg (by simp [ha, hb]), if_pos ⟨ha, hb, hs⟩]

theorem faddCore_inf_left (ha : fclass a = .inf) (hb : fclass b ≠ .nan) (hs : fclass b = .inf → fsign a = fsign b) :
    faddCore env a b half = fltOut a := by
  unfold faddCore
  rw [if_neg (by simp [ha, hb]), if_neg (by rintro ⟨-, hb', hne⟩; exact hne (hs hb')), if_pos ha]

theorem faddCore_inf_right (ha : fclass a ≠ .nan) (ha' : fclass a ≠ .inf) (hb : fclass b = .inf) :
    faddCore env a b half = fltOut b := by
  unfold faddCore
  rw [if_neg (by simp [ha, hb]), if_neg (by simp [ha']), if_neg ha', if_pos hb]

theorem faddCore_finite (ha : fclass a ≠ .nan) (ha' : fclass a ≠ .inf) (hb : fclass b ≠ .nan) (hb' : fclass b ≠ .inf) :
    faddCore env a b half = finiteSum env a b half := by
  unfold faddCore
  rw [if_neg (by simp [ha, hb]), if_neg (by simp [ha']), if_neg ha', if_neg hb']

/-- An Inf by its sign. -/
theorem inf_eq {v : DataWord} (h : fclass v = .inf) : v = finf (fsign v) := by
  obtain ⟨he, hf⟩ := fclass_inf.mp h
  have hm : v.extractLsb' 0 39 = 0x7F80000000#39 := by
    apply BitVec.eq_of_toNat_eq
    rw [magnitude_eq, he, hf]
    rfl
  rw [finf_eq, ← hm, sign_magnitude]

/-- The value that is rounded, halved for the average. -/
theorem sum_value (ha : fclass a = .normal ∨ fclass a = .zero) (hb : fclass b = .normal ∨ fclass b = .zero) :
    (floatValue a + floatValue b) / (if half then 2 else 1) =
      (exactSum a b : ℚ) * 2 ^ (commonUnit a b - if half then 1 else 0) := by
  rw [← exactSum_value ha hb]
  cases half
  · simp
  · rw [if_pos rfl, if_pos rfl, zpow_sub₀ two_ne_zero, zpow_one, mul_div_assoc]

theorem finiteSum_zero (h : exactSum a b = 0) : finiteSum env a b half =
    fltOut (fzero (fsign a && fsign b && decide (fclass a = .zero ∧ fclass b = .zero))) := by
  unfold finiteSum
  dsimp only
  rw [if_pos h, Bool.decide_and, Bool.and_assoc (fsign a && fsign b)]

/-- A sum that is not 0 is rounded once. -/
theorem finiteSum_round (ha : fclass a = .normal ∨ fclass a = .zero) (hb : fclass b = .normal ∨ fclass b = .zero)
    {x : ℚ} (hx : x = (floatValue a + floatValue b) / (if half then 2 else 1)) (hne : exactSum a b ≠ 0) :
    ∃ r av au, roundsTo env.mode1 (decide (x < 0)) |x| (fracBits env.mode1) r av au ∧
      finiteSum env a b half = ⟨r, resultFlags r av au⟩ := by
  have hp : (0 : ℚ) < 2 ^ (commonUnit a b - if half then 1 else 0) := by positivity
  have hval := hx.trans (sum_value half ha hb)
  have hsign : (x < 0) ↔ exactSum a b < 0 := by
    rw [hval, ← Int.cast_lt_zero (R := ℚ)]
    exact ⟨fun h => neg_of_mul_neg_left h hp.le, fun h => mul_neg_of_neg_of_pos h hp⟩
  have habs : |x| = ((exactSum a b).natAbs : ℚ) * 2 ^ (commonUnit a b - if half then 1 else 0) := by
    rw [hval, abs_mul, abs_of_pos hp, Nat.cast_natAbs, Int.cast_abs]
  rw [habs, decide_eq_decide.mpr hsign]
  refine ⟨_, _, _, fround_roundsTo env.mode1 (decide (exactSum a b < 0)) (Int.natAbs_ne_zero.mpr hne)
    (commonUnit a b - if half then 1 else 0) (fracBits env.mode1), ?_⟩
  unfold finiteSum
  dsimp only
  rw [if_neg hne, roundedOut_eq]

end

/-- The second operand as it is added, its sign inverted for a subtraction. -/
def addend (minus : Bool) (b : DataWord) : DataWord := if minus then fneg b else b

theorem addend_class (minus : Bool) (b : DataWord) : fclass (addend minus b) = fclass b := by
  unfold addend
  split
  · exact fneg_class b
  · rfl

theorem addend_sign (minus : Bool) (b : DataWord) : fsign (addend minus b) = (fsign b != minus) := by
  unfold addend
  cases minus
  · simp
  · rw [if_pos rfl, fneg_sign]
    simp

theorem addend_value (minus : Bool) (b : DataWord) :
    floatValue (addend minus b) = if minus then -floatValue b else floatValue b := by
  unfold addend
  split
  · exact fneg_value b
  · rfl

theorem fadd_of_core {env : Env} {a b r : DataWord} {minus half absr av au : Bool}
    (h : faddCore env a (addend minus b) half = ⟨r, resultFlags r av au⟩) :
    fadd env a b minus half absr = sumResult absr r av au := by
  rw [← sumResult_eq, ← h]
  rfl

theorem fltOut_eq (r : DataWord) : fltOut r = ⟨r, resultFlags r false false⟩ := by rw [fltOut, fltFlags_eq]

theorem fadd_an {env : Env} {a b : DataWord} {minus half absr : Bool} (h : absr = true) :
    (fadd env a b minus half absr).flags.an = false := by
  subst h
  exact absOut_an _

theorem fadd_invalid {env : Env} {a b : DataWord} {minus half absr : Bool} (ha : fclass a = .inf) (hb : fclass b = .inf)
    (hs : fsign a ≠ (fsign b != minus)) : IsInvalid (fadd env a b minus half absr) false := by
  have hcore : faddCore env a (addend minus b) half = nanOut env :=
    faddCore_opposite half ha ((addend_class minus b).trans hb) (by rwa [addend_sign])
  have h : fadd env a b minus half absr =
      if absr then absOut (faddCore env a (addend minus b) half) else faddCore env a (addend minus b) half := rfl
  rw [h, hcore]
  split
  · exact absOut_invalid (nanOut_invalid env)
  · exact nanOut_invalid env

/-- Settles O9: the cases of `fadd`, for the five operations alike. -/
theorem floatSums : Obligations.FloatSums := by
  intro env p rn rx ry ha hb a b sums
  have hsums (op : FltOp2) (minus half absolute : Bool) (hop : fltOp2 op env a b = fadd env a b minus half absolute) :
      sums op minus half absolute := by
    have hq : p.apply (evalCompute (.flt2 op rn rx ry) env p) =
        p.apply (aluResult rn (fadd env a b minus half absolute)) := by
      rw [← hop]
      rfl
    have hclass := addend_class minus b
    have hanswers {r : DataWord} {av au : Bool} (h : faddCore env a (addend minus b) half = ⟨r, resultFlags r av au⟩) :
        p.apply (evalCompute (.flt2 op rn rx ry) env p) =
          fltTo p rn (sumResult absolute r av au).value (sumResult absolute r av au).flags := by
      rw [hq, fadd_of_core h, apply_fltResult]
    have hvalue : (floatValue a + if minus then -floatValue b else floatValue b) / (if half then 2 else 1) =
        (floatValue a + floatValue (addend minus b)) / (if half then 2 else 1) := by rw [addend_value]
    refine ⟨fun hia hib hs => ?opposite, fun hia hs => ?left, fun hia hib => ?right, fun hia hib => ⟨fun hx => ?zero,
        fun hx => ?round⟩⟩
    case opposite =>
      rw [hq]
      exact ⟨invalidOut_of (fadd_invalid hia hib hs), fun h => (anOf_fltResult p rn _).trans (fadd_an h)⟩
    case left =>
      refine hanswers ?_
      have hs' : fclass (addend minus b) = .inf → fsign a = fsign (addend minus b) := fun h => by
        rw [addend_sign]
        exact hs (hclass.symm.trans h)
      rw [faddCore_inf_left half hia (hclass ▸ hb) hs', fltOut_eq]
      exact congrArg (fun r => (⟨r, resultFlags r false false⟩ : AluOut)) (inf_eq hia)
    case right =>
      refine hanswers ?_
      have hinf := inf_eq (hclass.trans hib)
      rw [faddCore_inf_right half ha hia (hclass.trans hib), fltOut_eq]
      rw [addend_sign] at hinf
      exact congrArg (fun r => (⟨r, resultFlags r false false⟩ : AluOut)) hinf
    case zero =>
      refine hanswers ?_
      have hsum := hx
      rw [hvalue, sum_value half (zero_or_normal ha hia) (hclass ▸ zero_or_normal hb hib), mul_eq_zero,
        Int.cast_eq_zero] at hsum
      have hsum := hsum.resolve_right (by positivity)
      rw [faddCore_finite half ha hia (hclass ▸ hb) (hclass ▸ hib), finiteSum_zero half hsum, fltOut_eq, addend_sign,
          hclass]
      rfl
    case round =>
      have hne : exactSum a (addend minus b) ≠ 0 := by
        intro h0
        refine hx (hvalue.trans ?_)
        rw [sum_value half (zero_or_normal ha hia) (hclass ▸ zero_or_normal hb hib), h0]
        simp
      obtain ⟨r, av, au, hr, hsum⟩ := finiteSum_round (env := env) half (zero_or_normal ha hia)
        (hclass ▸ zero_or_normal hb hib) hvalue hne
      refine ⟨r, av, au, hr, hanswers ?_⟩
      rw [faddCore_finite half ha hia (hclass ▸ hb) (hclass ▸ hib), hsum]
  exact ⟨hsums _ _ _ _ rfl, hsums _ _ _ _ rfl, hsums _ _ _ _ rfl, hsums _ _ _ _ rfl, hsums _ _ _ _ rfl⟩

end Sys2Proof.Machine
end

section
/-! The conversions between floating-point and fixed-point, scaling, exponents and seeds (45_alu_float.md R414 to
R426). -/

-- One proof at a time: each thread that elaborates beside another reserves a gigabyte of the check's memory.
set_option Elab.async false

namespace Sys2Proof.Machine

/-! ### To fixed-point (R418) -/

/-- A magnitude of the sign `s`. -/
def signedBy (s : Bool) (y : ℚ) : ℚ := if s then -y else y

theorem narrowsTo_nearest {y : ℚ} {n : Nat} (h : |y - n| ≤ 1 / 2 ∧ (|y - n| = 1 / 2 → n % 2 = 0)) (s : Bool) :
    narrowsTo .nearest (signedBy s y) (if s then -(n : Int) else n) := by
  have habs : |signedBy s y - ((if s then -(n : Int) else n : Int) : ℚ)| = |y - n| := by
    cases s
    · simp [signedBy]
    · rw [← abs_neg (y - n)]
      congr 1
      simp only [signedBy, if_true]
      push_cast
      ring
  unfold narrowsTo
  dsimp only
  rw [habs]
  refine ⟨h.1, fun he => ?_⟩
  have := h.2 he
  cases s <;> simp only [Bool.false_eq_true, if_false, if_true] <;> omega

theorem narrowsTo_floor {y : ℚ} {n : Nat} {inexact : Bool} (hlo : (n : ℚ) ≤ y) (hhi : y < n + 1)
    (he : if inexact then (n : ℚ) < y else y = n) (s : Bool) :
    narrowsTo .floor (signedBy s y) (if s then -((if inexact then n + 1 else n : Nat) : Int) else n) := by
  unfold narrowsTo signedBy
  cases s
  · simp only [Bool.false_eq_true, if_false]
    push_cast
    exact ⟨hlo, hhi⟩
  · cases inexact
    · simp only [Bool.false_eq_true, if_false, if_true] at he ⊢
      push_cast
      constructor <;> linarith
    · simp only [if_true] at he ⊢
      push_cast
      constructor <;> linarith

theorem narrowsTo_zero {y : ℚ} {n : Nat} (hlo : (n : ℚ) ≤ y) (hhi : y < n + 1) (s : Bool) :
    narrowsTo .zero (signedBy s y) (if s then -(n : Int) else n) := by
  have hn : (0 : ℚ) ≤ n := by positivity
  unfold narrowsTo signedBy
  cases s <;> simp only [Bool.false_eq_true, if_false, if_true] <;> push_cast
  · rw [if_pos (by linarith)]
    exact ⟨hlo, hhi⟩
  · split
    · constructor <;> linarith
    · constructor <;> linarith

/-- `roundInt` narrows its signed quotient. -/
theorem roundInt_narrows (mode : Rounding) (s : Bool) (sig d : Nat) :
    narrowsTo mode (signedBy s ((sig : ℚ) / 2 ^ d)) (roundInt mode s sig d) := by
  obtain ⟨hlo, hhi⟩ := div_pow_floor sig d
  cases mode
  case nearest => exact narrowsTo_nearest (roundNearest_nearest sig d) s
  case floor =>
    refine narrowsTo_floor hlo hhi ?_ s
    have hrest := div_pow_eq sig d
    by_cases h : sig % 2 ^ d = 0
    · rw [if_neg (by simp [h]), hrest, h]
      simp
    · rw [if_pos (by simp [h]), hrest]
      have : (0 : ℚ) < ((sig % 2 ^ d : Nat) : ℚ) / 2 ^ d := by
        have := Nat.pos_of_ne_zero h
        positivity
      linarith
  case zero => exact narrowsTo_zero hlo hhi s

/-- A significand shifted beyond all its bits is narrowed alike, however far. -/
theorem roundInt_far (mode : Rounding) (s : Bool) {sig d : Nat} (h : sig < 2 ^ 32) (hd : 64 ≤ d) :
    roundInt mode s sig d = roundInt mode s sig 64 := by
  have hp : (2 : Nat) ^ 64 ≤ 2 ^ d := Nat.pow_le_pow_right (by omega) hd
  have hdiv : sig / 2 ^ d = sig / 2 ^ 64 := by rw [Nat.div_eq_of_lt (by omega), Nat.div_eq_of_lt (by omega)]
  have hmod : sig % 2 ^ d = sig % 2 ^ 64 := by rw [Nat.mod_eq_of_lt (by omega), Nat.mod_eq_of_lt (by omega)]
  have hnear : roundNearest sig d = roundNearest sig 64 := by
    unfold roundNearest
    dsimp only
    rw [hdiv, hmod, Nat.mod_eq_of_lt (by omega : sig < 2 ^ 64), if_neg (by omega), if_neg (by omega)]
  unfold roundInt
  rw [hdiv, hmod, hnear]

/-- The shift of `ftoi` is bounded, which leaves the integer the same. -/
theorem roundInt_min (mode : Rounding) (s : Bool) {sig d : Nat} (h : sig < 2 ^ 32) :
    roundInt mode s sig (min d 64) = roundInt mode s sig d := by
  rcases Nat.le_total d 64 with hd | hd
  · rw [Nat.min_eq_left hd]
  · rw [Nat.min_eq_right hd, roundInt_far mode s h hd]

/-- A Normal scaled by `2^k` as a quotient. -/
theorem scaled_value {v : DataWord} (hv : fclass v = .normal) {k : Int} (h : (fexp v : Int) + k ≤ 157) :
    floatValue v * 2 ^ k = signedBy (fsign v) ((fsig v : ℚ) / 2 ^ (158 - ((fexp v : Int) + k)).toNat) := by
  have hm : fmagnitude v * 2 ^ k = (fsig v : ℚ) / 2 ^ (158 - ((fexp v : Int) + k)).toNat := by
    rw [fmagnitude_eq_fsig (.inl hv), ← zpow_natCast, div_eq_mul_inv, ← zpow_neg, Int.toNat_of_nonneg (by omega),
      mul_assoc, ← zpow_add₀ two_ne_zero]
    congr 2
    unfold funit
    ring
  rw [floatValue_eq, mul_assoc, hm]
  unfold signedBy
  cases fsign v <;> simp

theorem fsig_lt {v : DataWord} : fsig v < 2 ^ 32 := by
  have := ffrac_lt v
  unfold fsig
  split <;> omega

/-- A result of a conversion. -/
def fixOut (r : DataWord) (az au an av : Bool) : AluOut :=
  ⟨r, { az := az, au := au, an := an, av := av, ac := false, as := false, ai := false, af := true }⟩

/-- An operand that fits is narrowed; of a magnitude of 2^31 nothing is said (U16). -/
theorem ftoi_fits (env : Env) {v : DataWord} (hv : fclass v = .normal) {k : Int} (h : (fexp v : Int) + k ≤ 157)
    (mode : Rounding) : ∃ n : Int, narrowsTo mode (floatValue v * 2 ^ k) n ∧
      (n.natAbs ≠ 2 ^ 31 → ftoi env v k mode =
        fixOut (BitVec.ofInt 32 n ++ 0#8) (decide (n = 0)) (decide ((fexp v : Int) + k < 1)) (decide (n < 0)) false) :=
            by
  refine ⟨roundInt mode (fsign v) (fsig v) (158 - ((fexp v : Int) + k)).toNat, ?_, fun hne => ?_⟩
  · rw [scaled_value hv h]
    exact roundInt_narrows ..
  · unfold ftoi
    rw [hv]
    dsimp only
    rw [if_neg (by omega), roundInt_min mode _ fsig_lt, if_neg hne]
    rfl

theorem ftoi_overflow (env : Env) {v : DataWord} {k : Int}
    (h : fclass v = .inf ∨ fclass v = .normal ∧ 157 < (fexp v : Int) + k) (mode : Rounding) :
    ftoi env v k mode = ftoiOverflow env (fsign v) := by
  unfold ftoi
  rcases h with h | ⟨h, hk⟩
  · rw [h]
  · rw [h]
    exact if_pos hk

theorem toFx_satFx (s : Bool) : toFx (satFx s) = if s then 0x8000000000#40 else 0x7FFFFFFF00#40 := by cases s <;> rfl

/-- Settles O10, for the four conversions alike. -/
theorem floatToFixed : Obligations.FloatToFixed := by
  intro env p rn rx ry hn v converts fixes
  have hconv {c : Compute} {k : Int} {mode : Rounding} (hc : evalCompute c env p = aluResult rn (ftoi env v k mode)) :
      converts c k mode := by
    have hq : p.apply (evalCompute c env p) = _ := (congrArg p.apply hc).trans (apply_fltResult p rn _)
    refine ⟨fun h => ?overflow, fun h => ?zero, fun h he => ?fits⟩
    case overflow =>
      rw [ftoi_overflow env h mode] at hq
      unfold ftoiOverflow at hq
      split
      next hs =>
        rw [if_pos hs, toFx_satFx] at hq
        exact hq
      next hs =>
        rw [if_neg hs] at hq
        exact ⟨_, hq⟩
    case zero =>
      have hz : ftoi env v k mode = fixOut 0#40 true false false false := by
        unfold ftoi
        rw [h]
        rfl
      rw [hz] at hq
      exact hq
    case fits =>
      obtain ⟨n, hr, ho⟩ := ftoi_fits env h he mode
      exact ⟨n, hr, fun hne => hq.trans (by rw [ho hne]; rfl)⟩
  exact ⟨hconv rfl, hconv rfl, hconv rfl, hconv rfl⟩

/-! ### Scaling (R414, R415, R423) -/

theorem floatBy_zero (env : Env) {i : Word} (h : i.toInt = 0) (k : Int) : floatBy env i k = fltOut 0#40 := by
  have hi : i = 0#32 := BitVec.eq_of_toInt_eq h
  unfold floatBy
  rw [if_pos hi]
  rfl

/-- An integer scaled by a power of two, rounded once. -/
theorem floatBy_round (env : Env) {i : Word} (h : i.toInt ≠ 0) (k : Int) :
    ∃ r av au, roundsTo env.mode1 (decide (i.toInt < 0)) (|(i.toInt : ℚ)| * 2 ^ k) 31 r av au ∧
      floatBy env i k = ⟨r, resultFlags r av au⟩ := by
  have hi : i ≠ 0#32 := fun h0 => h (by rw [h0]; rfl)
  have habs : |(i.toInt : ℚ)| = (i.toInt.natAbs : ℚ) := by rw [Nat.cast_natAbs, Int.cast_abs]
  rw [habs]
  refine ⟨_, _, _, fround_roundsTo env.mode1 (decide (i.toInt < 0)) (Int.natAbs_ne_zero.mpr h) k 31, ?_⟩
  unfold floatBy
  rw [if_neg hi, roundedOut_eq]

/-- A Normal rounded to the 32-bit boundary. -/
theorem frnd_round (env : Env) {v : DataWord} (h : fclass v = .normal) :
    ∃ r av au, roundsTo env.mode1 (fsign v) |floatValue v| 23 r av au ∧
      frnd env v = ⟨r, resultFlags r av false⟩ := by
  have hne : fsig v ≠ 0 := by
    rw [fsig_of_normal h]
    positivity
  rw [abs_floatValue, fmagnitude_eq_fsig (.inl h)]
  refine ⟨_, _, _, fround_roundsTo env.mode1 (fsign v) hne (funit v) 23, ?_⟩
  unfold frnd
  rw [h]
  dsimp only
  rw [roundedOut_eq]
  rfl

section
variable (env : Env) {v : DataWord} (h : fclass v = .normal) {k : Int}
include h

theorem scalb_overflow (hk : 127 < (fexp v : Int) - 127 + k) :
    scalb env v k = ⟨overflowResult env.mode1 (fsign v) (fracBits env.mode1),
      resultFlags (overflowResult env.mode1 (fsign v) (fracBits env.mode1)) true false⟩ := by
  unfold scalb
  rw [h]
  dsimp only
  rw [if_pos hk, roundedOut_eq, foverflow_eq]

theorem scalb_underflow (hk : (fexp v : Int) - 127 + k < -126) :
    scalb env v k = ⟨fzero (fsign v), resultFlags (fzero (fsign v)) false true⟩ := by
  unfold scalb
  rw [h]
  dsimp only
  rw [if_neg (by omega), if_pos hk, roundedOut_eq]

theorem scalb_fits (hlo : -126 ≤ (fexp v : Int) - 127 + k) (hhi : (fexp v : Int) - 127 + k ≤ 127) :
    scalb env v k =
      fltOut (BitVec.ofBool (fsign v) ++ (BitVec.ofInt 8 ((fexp v : Int) - 127 + k + 127) ++ v.extractLsb' 0 31)) := by
  have he : BitVec.ofNat 8 ((fexp v : Int) - 127 + k + 127).toNat = BitVec.ofInt 8 ((fexp v : Int) - 127 + k + 127) :=
      by
    rw [← BitVec.ofInt_natCast, Int.toNat_of_nonneg (by omega)]
  have hf : BitVec.ofNat 31 (ffrac v) = v.extractLsb' 0 31 := by
    unfold ffrac
    rw [BitVec.ofNat_toNat, BitVec.setWidth_eq]
  unfold scalb
  rw [h]
  dsimp only
  rw [if_neg (by omega), if_neg (by omega), fpack40, he, hf]

end

/-- Settles O11. -/
theorem floatScaling : Obligations.FloatScaling := by
  intro env p rn rx ry v sign k two one plain floats keeps e
  have hout {o : AluOut} {q : Pe} {r : DataWord} {av au : Bool} (hq : q = p.apply (aluResult rn o))
      (ho : o = ⟨r, resultFlags r av au⟩) : q = fltTo p rn r (resultFlags r av au) := by
    rw [hq, ho, apply_fltResult]
  have hfloats {q : Pe} {scale : Int} (hq : q = p.apply (aluResult rn (floatBy env (p.fx rx) scale))) :
      floats q scale := by
    refine ⟨fun h => hout hq ((floatBy_zero env h scale).trans (fltOut_eq _)), fun h => ?_⟩
    obtain ⟨r, av, au, hr, ho⟩ := floatBy_round env h scale
    exact ⟨r, av, au, hr, hout hq ho⟩
  refine ⟨hfloats rfl, hfloats rfl, ⟨fun h => ?rndInf, fun h => ?rndZero⟩, ⟨fun h => ?scalbInf, fun h => ?scalbZero⟩,
    fun h => ⟨?round, fun he => hout (q := two .scalb) rfl (scalb_overflow env h he),
      fun he => hout (q := two .scalb) rfl (scalb_underflow env h he),
      fun hlo hhi => hout (q := two .scalb) rfl ((scalb_fits env h hlo hhi).trans (fltOut_eq _))⟩⟩
  case rndInf => exact hout (o := frnd env v) rfl (by rw [frnd, h]; exact fltOut_eq _)
  case rndZero => exact hout (o := frnd env v) rfl (by rw [frnd, h]; exact fltOut_eq _)
  case scalbInf => exact hout (o := scalb env v k) rfl (by rw [scalb, h]; exact fltOut_eq _)
  case scalbZero => exact hout (o := scalb env v k) rfl (by rw [scalb, h]; exact fltOut_eq _)
  case round =>
    obtain ⟨r, av, au, hr, ho⟩ := frnd_round env h
    exact ⟨r, av, au, hr, hout (o := frnd env v) rfl ho⟩

/-! ### Exponents and seeds (R416, R417, R425, R426) -/

/-- A result with the flags the exponent and seed operations set. -/
def seedOutWith (r : DataWord) (az an av as : Bool) : AluOut :=
  ⟨r, { az := az, au := false, an := an, av := av, ac := false, as := as, ai := false, af := true }⟩

theorem toFx_eq_zero {w : Word} : toFx w = 0#40 ↔ w = 0#32 := by
  rw [← BitVec.toNat_inj, ← BitVec.toNat_inj, toFx, BitVec.toNat_append, Nat.shiftLeft_eq]
  simp

theorem toFx_sign (w : Word) : (toFx w).getLsbD 39 = w.getLsbD 31 := by
  unfold toFx
  rw [BitVec.getLsbD_append]
  simp

/-- The exponent of a Normal as a fixed-point number. -/
theorem logb_normal (env : Env) {v : DataWord} (h : fclass v = .normal) {e : Int} (he : (fexp v : Int) - 127 = e) :
    logb env v = seedOutWith (BitVec.ofInt 32 e ++ 0#8) (decide (e = 0)) (decide (e < 0)) false false := by
  have hx := fclass_normal.mp h
  have hint : (BitVec.ofInt 32 e).toInt = e := by
    rw [BitVec.toInt_ofInt, Int.bmod_eq_of_le (by omega) (by omega)]
  have hzero : toFx (BitVec.ofInt 32 e) = 0#40 ↔ e = 0 := by
    rw [toFx_eq_zero, ← BitVec.toInt_inj, hint]
    rfl
  unfold logb
  rw [h]
  dsimp only
  rw [he, logbOut, toFx_sign, bit31_eq_neg, hint, decide_eq_decide.mpr hzero]
  rfl

theorem recips_small {v : DataWord} (h : fclass v = .normal) (he : 125 < (fexp v : Int) - 127) :
    recips v = seedOutWith (fzero (fsign v)) true (fsign v) false false := by
  unfold recips
  rw [h]
  exact if_pos (by omega)

theorem recips_seed {v : DataWord} (h : fclass v = .normal) {e : Int} (hv : (fexp v : Int) - 127 = e) (he : e ≤ 125) :
    recips v = seedOutWith (BitVec.ofBool (fsign v) ++
      (BitVec.ofInt 8 (-e - 1 + 127) ++ Config.recipsRom (v.extractLsb' 24 7))) false (fsign v) false false := by
  have hn : BitVec.ofNat 8 (253 - fexp v) = BitVec.ofInt 8 (-e - 1 + 127) := by
    rw [← BitVec.ofInt_natCast, Nat.cast_sub (by omega)]
    congr 1
    push_cast
    omega
  unfold recips
  rw [h]
  dsimp only
  rw [if_neg (by omega), hn]
  rfl

theorem rsqrts_seed {v : DataWord} (h : fclass v = .normal) (hs : fsign v = false) {e : Int}
    (hv : (fexp v : Int) - 127 = e) :
    rsqrts v = seedOutWith (0#1 ++ (BitVec.ofInt 8 (-(e / 2) - 1 + 127) ++
      Config.rsqrtsRom (BitVec.ofBool (v.getLsbD 31) ++ v.extractLsb' 25 6))) false false false false := by
  have hbit : v.extractLsb' 31 1 = BitVec.ofBool (v.getLsbD 31) := by
    ext i hi
    obtain rfl : i = 0 := by omega
    simp
  have hexp : rsqrtsExp v = -(e / 2) - 1 + 127 := by
    unfold rsqrtsExp
    omega
  unfold rsqrts
  rw [h]
  dsimp only
  rw [if_neg (by simp [hs]), hbit, hexp]
  rfl

/-- Settles O12. -/
theorem exponentsAndSeeds : Obligations.ExponentsAndSeeds := by
  intro env p rn rx v sign e inf q writes
  have hw {op : FltOp1} {r : DataWord} {az an av as : Bool} (h : fltOp1 op env v = seedOutWith r az an av as) :
      writes op r az an av as := by
    have hq : q op = p.apply (aluResult rn (fltOp1 op env v)) := rfl
    rw [h, apply_fltResult] at hq
    exact hq
  refine ⟨fun h => ⟨hw ?mant, hw (logb_normal env h rfl), fun he => hw (recips_small h he),
    fun he => hw (recips_seed h rfl he), fun hs => hw (rsqrts_seed h hs rfl)⟩,
    fun h => ⟨hw ?mantZero, hw ?logbZero, hw ?recipsZero, hw ?rsqrtsZero⟩,
    fun h => ⟨hw ?mantInf, hw ?logbInf, hw ?recipsInf, fun hs => hw ?rsqrtsInf⟩, fun h hs => ?negative⟩
  case mant => rw [fltOp1, mant, h]; rfl
  case mantZero => rw [fltOp1, mant, h]; rfl
  case mantInf => rw [fltOp1, mant, h]; rfl
  case recipsZero => rw [fltOp1, recips, h]; rfl
  case recipsInf => rw [fltOp1, recips, h]; rfl
  case rsqrtsZero => rw [fltOp1, rsqrts, h]; rfl
  case rsqrtsInf =>
    rw [fltOp1, rsqrts, h]
    dsimp only
    rw [if_neg (by simp [fsign, sign] at hs ⊢; exact hs)]
    rfl
  case logbZero =>
    rw [fltOp1, logb, h]
    dsimp only
    split <;> rfl
  case logbInf =>
    rw [fltOp1, logb, h]
    dsimp only
    split <;> rfl
  case negative =>
    have hr : fltOp1 .rsqrts env v = seedOut nan1 false false false true := by
      rcases h with h | h
      · rw [fltOp1, rsqrts, h]
        exact if_pos hs
      · rw [fltOp1, rsqrts, h]
        exact if_pos hs
    have hq : q .rsqrts = p.apply (aluResult rn (fltOp1 .rsqrts env v)) := rfl
    rw [hq, hr]
    exact ⟨invalidOut_of ⟨false, rfl⟩, anOf_fltResult p rn _⟩

end Sys2Proof.Machine
end

section
/-! The shifter (47_shifter.md): shifts and rotations as numbers, bit operations, fields bit by bit. -/

-- One proof at a time: each thread that elaborates beside another reserves a gigabyte of the check's memory.
set_option Elab.async false

namespace Sys2Proof.Machine

/-! ### A shifter operation on each element -/

theorem exec_shiftImm_always (sh : ShiftImm) (s : State) :
    exec (.shiftImm .always sh) s = .next (shifted s sh (allElements s)) := by
  have h := commit_shiftImm s sh true s.simd [] List.nodup_nil (by simp)
  rw [List.append_nil] at h
  show execShiftImm .always sh s = _
  unfold execShiftImm
  rw [evalCond_always]
  exact congrArg Run.outcome h

/-- A shifter operation, from a register or an immediate: its result on each element. -/
theorem exec_shiftResult {i : Instr} (h : standsAlone i = true) {s : State} {rn : RegNum} {o : Element → Pe → ShiftOut}
    (hi : ∀ e p, evalCompute i.compute (s.env e) p = shiftResult rn (o e p)) {out : Element → Pe → Word}
    {fl : Element → Pe → ShiftFlags} (ho : ∀ e p, o e p = ⟨out e p, fl e p⟩) :
    exec i s = .next (onEach s fun e p => shiftTo p rn (out e p) (fl e p)) := by
  refine exec_onEach h ?_ fun e p => by rw [hi, apply_shiftResult, ho]
  rw [← evalCompute_regs i.compute (s.env .x) s.x, hi]
  exact List.nodup_singleton _

theorem exec_immResult {sh : ShiftImm} {s : State} {rn : RegNum} {o : Element → Pe → ShiftOut}
    (hi : ∀ e p, evalShiftImm sh (s.env e) p = shiftResult rn (o e p)) {out : Element → Pe → Word}
    {fl : Element → Pe → ShiftFlags} (ho : ∀ e p, o e p = ⟨out e p, fl e p⟩) :
    exec (.shiftImm .always sh) s = .next (onEach s fun e p => shiftTo p rn (out e p) (fl e p)) := by
  rw [exec_shiftImm_always]
  unfold shifted onEach allElements
  simp only [if_true, hi, apply_shiftResult, ho]

/-! ### Shifts (R492 to R496) -/

theorem lsh_eq_shift (x : Word) (k : Int) : lsh x k = if 0 ≤ k then x <<< k.toNat else x >>> (-k).toNat := by
  unfold lsh
  split
  next h => rw [if_pos (by omega), BitVec.shiftLeft_eq_zero (by omega)]
  next h =>
    split
    · rfl
    · split
      · rfl
      next h' =>
        apply BitVec.eq_of_toNat_eq
        have hp : (2 : Nat) ^ 32 ≤ 2 ^ (-k).toNat := Nat.pow_le_pow_right (by omega) (by omega)
        rw [BitVec.toNat_ushiftRight, Nat.shiftRight_eq_div_pow, Nat.div_eq_of_lt (by have := x.isLt; omega)]
        rfl

/-- A logical shift as a product or a quotient. -/
theorem lsh_eq (x : Word) (k : Int) :
    lsh x k = if 0 ≤ k then BitVec.ofNat 32 (x.toNat * 2 ^ k.toNat) else BitVec.ofNat 32 (x.toNat / 2 ^ (-k).toNat) :=
        by
  rw [lsh_eq_shift]
  split
  · apply BitVec.eq_of_toNat_eq
    rw [BitVec.toNat_shiftLeft, Nat.shiftLeft_eq, BitVec.toNat_ofNat]
  · apply BitVec.eq_of_toNat_eq
    rw [BitVec.toNat_ushiftRight, Nat.shiftRight_eq_div_pow, BitVec.toNat_ofNat, Nat.mod_eq_of_lt]
    exact lt_of_le_of_lt (Nat.div_le_self _ _) x.isLt

theorem ofInt_toInt_mul (x : Word) (m : Nat) : BitVec.ofInt 32 (x.toInt * m) = BitVec.ofNat 32 (x.toNat * m) := by
  rw [BitVec.ofInt_mul, BitVec.ofInt_toInt, BitVec.ofInt_natCast, BitVec.ofNat_mul, BitVec.ofNat_toNat,
    BitVec.setWidth_eq]

/-- A far right shift leaves the sign. -/
theorem toInt_div_far {x : Word} {n : Nat} (h : 32 ≤ n) : x.toInt / 2 ^ n = if x.getLsbD 31 then -1 else 0 := by
  have hp : ((2 : Int) ^ 32) ≤ 2 ^ n := by exact_mod_cast Nat.pow_le_pow_right (by omega) h
  have hx := x.isLt
  have hlo := x.le_toInt
  have hhi := x.toInt_lt
  rw [bit31_eq_neg]
  split
  next hs =>
    rw [decide_eq_true_iff] at hs
    exact Int.ediv_eq_neg_one_of_neg_of_le hs (by omega)
  next hs =>
    rw [decide_eq_true_iff] at hs
    exact Int.ediv_eq_zero_of_lt (by omega) (by omega)

/-- An arithmetic shift as a product or a quotient toward minus infinity. -/
theorem ash_eq (x : Word) (k : Int) :
    ash x k = if 0 ≤ k then BitVec.ofInt 32 (x.toInt * 2 ^ k.toNat) else BitVec.ofInt 32 (x.toInt / 2 ^ (-k).toNat) :=
        by
  unfold ash
  split
  next h =>
    rw [lsh_eq, if_pos h, ← ofInt_toInt_mul]
    push_cast
    rfl
  next h =>
    split
    next h' =>
      rw [BitVec.sshiftRight_eq, Int.shiftRight_eq_div_pow]
      push_cast
      rfl
    next h' =>
      rw [toInt_div_far (by omega)]
      split <;> rfl

/-- A bit of a rotation. -/
theorem rotBy_getLsbD (x : Word) (k : Int) {i : Nat} (hi : i < 32) :
    (rotBy x k).getLsbD i = x.getLsbD (((i : Int) - k) % 32).toNat := by
  unfold rotBy
  rw [BitVec.getLsbD_rotateLeft]
  by_cases h : i < (k % 32).toNat % 32
  · simp only [h, decide_true, cond_true]
    congr 1
    omega
  · simp only [h, decide_false, cond_false, hi, decide_true, Bool.true_and]
    congr 1
    omega

/-- An operation with a count, from a register or an 8-bit immediate. -/
theorem exec_shiftOp {reg : Instr} {op : ShiftOp} {s : State} {rn rx ry : RegNum} (h : standsAlone reg = true)
    (hi : ∀ e p, evalCompute reg.compute (s.env e) p =
      shiftResult rn (shiftOp op (s.env e) (p.fx rn) (p.fx rx) (p.fx ry).toInt))
    {out : Element → Pe → Int → Word} {fl : Element → Pe → Int → ShiftFlags}
    (ho : ∀ e p k, shiftOp op (s.env e) (p.fx rn) (p.fx rx) k = ⟨out e p k, fl e p k⟩) (data : BitVec 8) :
    exec reg s =
        .next (onEach s fun e p => shiftTo p rn (out e p (p.fx ry).toInt) (fl e p (p.fx ry).toInt)) ∧
      exec (.shiftImm .always (.shift op data rn rx)) s =
        .next (onEach s fun e p => shiftTo p rn (out e p data.toInt) (fl e p data.toInt)) :=
  ⟨exec_shiftResult h hi fun e p => ho e p _, exec_immResult (fun _ _ => rfl) fun e p => ho e p _⟩

/-- Settles O17. -/
theorem shiftsAndRotate : Obligations.ShiftsAndRotate := by
  intro s rn rx ry data answers ored logical arithmetic
  have hanswers {reg : Instr} {op : ShiftOp} {out : Pe → Int → Word} {sv : Int → Bool} (h : standsAlone reg = true)
      (hi : ∀ e p, evalCompute reg.compute (s.env e) p =
        shiftResult rn (shiftOp op (s.env e) (p.fx rn) (p.fx rx) (p.fx ry).toInt))
      (ho : ∀ e p k, shiftOp op (s.env e) (p.fx rn) (p.fx rx) k =
        ⟨out p k, { sz := decide (out p k = 0#32), sv := sv k, ss := false }⟩) : answers reg op out sv :=
    exec_shiftOp h hi ho data
  have hored {reg : Instr} {op : ShiftOp} {out : Pe → Int → Word} (h : standsAlone reg = true)
      (hi : ∀ e p, evalCompute reg.compute (s.env e) p =
        shiftResult rn (shiftOp op (s.env e) (p.fx rn) (p.fx rx) (p.fx ry).toInt))
      (ho : ∀ e p k, shiftOp op (s.env e) (p.fx rn) (p.fx rx) k = orShiftedOut (s.env e) (p.fx rn) (out p k) k) :
      ored reg op out := by
    refine ⟨fun e p k => (orShiftedOut (s.env e) (p.fx rn) (out p k) k).flags.sz, fun e p k hz => ?sz,
      exec_shiftOp h hi ho data⟩
    refine if_neg ?_
    rintro ⟨h0, hne⟩
    rw [h0, hz h0] at hne
    exact hne rfl
  refine ⟨?lshift, ?ashift, ?orLshift, ?orAshift, fun p k => rotBy (p.fx rx) k, fun p k i hi => rotBy_getLsbD _ k hi,
      ?rot⟩
  case lshift =>
    exact hanswers (reg := .lshift rn rx ry) (op := .lshift) (out := logical) (sv := fun k => decide (0 < k)) rfl (fun
        _ _ => rfl) fun _ p k =>
      congrArg (shiftedOut · k) (lsh_eq (p.fx rx) k)
  case ashift =>
    exact hanswers (reg := .ashift rn rx ry) (op := .ashift) (out := arithmetic) (sv := fun k => decide (0 < k)) rfl
        (fun _ _ => rfl) fun _ p k =>
      congrArg (shiftedOut · k) (ash_eq (p.fx rx) k)
  case orLshift =>
    exact hored (reg := .orLshift rn rx ry) (op := .orLshift) (out := logical) rfl (fun _ _ => rfl) fun e p k =>
      congrArg (orShiftedOut (s.env e) (p.fx rn) · k) (lsh_eq (p.fx rx) k)
  case orAshift =>
    exact hored (reg := .orAshift rn rx ry) (op := .orAshift) (out := arithmetic) rfl (fun _ _ => rfl) fun e p k =>
      congrArg (orShiftedOut (s.env e) (p.fx rn) · k) (ash_eq (p.fx rx) k)
  case rot =>
    exact hanswers (reg := .rot rn rx ry) (op := .rot) (out := fun p k => rotBy (p.fx rx) k) (sv := fun _ => false) rfl
      (fun _ _ => rfl) fun _ _ _ => rfl

/-! ### Bits and counts (R497 to R499, R510, R511) -/

theorem bitMask_getLsbD (k : Int) {i : Nat} (hi : i < 32) : (bitMask k).getLsbD i = decide ((i : Int) = k) := by
  unfold bitMask inField
  by_cases hk : 0 ≤ k ∧ k ≤ 31
  · rw [if_pos (decide_eq_true hk), BitVec.getLsbD_shiftLeft]
    by_cases h : (i : Int) = k
    · subst h
      simp [hi]
    · simp only [hi, decide_true, Bool.true_and, h, decide_false]
      by_cases hlt : i < k.toNat
      · simp [hlt]
      · simp [show ¬ i - k.toNat = 0 by omega]
  · rw [if_neg (by simpa using hk), BitVec.getLsbD_zero, eq_comm, decide_eq_false_iff_not]
    omega

/-- The number of leading zeros: so many bits from the top are 0, the next is 1. -/
theorem leadingZeros_spec (x : Word) :
    leadingZeros x ≤ 32 ∧ (∀ i, i < leadingZeros x → x.getLsbD (31 - i) = false) ∧
      (leadingZeros x < 32 → x.getLsbD (31 - leadingZeros x) = true) := by
  unfold leadingZeros
  by_cases h : x = 0#32
  · rw [if_pos h, h]
    simp
  · rw [if_neg h]
    have hne : x.toNat ≠ 0 := fun h0 => h (BitVec.eq_of_toNat_eq h0)
    have hlog : Nat.log2 x.toNat < 32 := (Nat.log2_lt hne).mpr x.isLt
    refine ⟨by omega, fun i hi => ?_, fun _ => ?_⟩
    · refine Nat.testBit_lt_two_pow (lt_of_lt_of_le Nat.lt_log2_self (Nat.pow_le_pow_right (by omega) ?_))
      omega
    · rw [show 31 - (31 - Nat.log2 x.toNat) = Nat.log2 x.toNat by omega]
      exact Nat.testBit_log2 hne

theorem leadingOnes_spec (x : Word) :
    leadingZeros (~~~x) ≤ 32 ∧ (∀ i, i < leadingZeros (~~~x) → x.getLsbD (31 - i) = true) ∧
      (leadingZeros (~~~x) < 32 → x.getLsbD (31 - leadingZeros (~~~x)) = false) := by
  obtain ⟨hle, hlead, hnext⟩ := leadingZeros_spec (~~~x)
  have hnot (i : Nat) : (~~~x).getLsbD (31 - i) = !x.getLsbD (31 - i) := by
    rw [BitVec.getLsbD_not]
    simp [show 31 - i < 32 by omega]
  refine ⟨hle, fun i hi => ?_, fun h => ?_⟩
  · simpa using (hnot i).symm.trans (hlead i hi)
  · simpa using (hnot _).symm.trans (hnext h)

/-- Settles O18. -/
theorem bitOperations : Obligations.BitOperations := by
  intro s rn rx ry data answers counts
  have hanswers {reg : Instr} {op : ShiftOp} {bit : Bool → Bool → Bool} (out : Word → Int → Word)
      (h : standsAlone reg = true) (hi : ∀ e p, evalCompute reg.compute (s.env e) p =
        shiftResult rn (shiftOp op (s.env e) (p.fx rn) (p.fx rx) (p.fx ry).toInt))
      (ho : ∀ env old x k, shiftOp op env old x k = bitOut (out x k) k)
      (hbit : ∀ x k i, i < 32 → (out x k).getLsbD i = bit (x.getLsbD i) (decide ((i : Int) = k))) :
      answers reg op bit :=
    ⟨fun p k => out (p.fx rx) k, fun p k i hi => hbit _ k i hi,
      exec_shiftOp (out := fun _ p k => out (p.fx rx) k)
        (fl := fun _ p k => { sz := decide (out (p.fx rx) k = 0#32), sv := decide (31 < k), ss := false })
        h hi (fun e p k => ho _ _ _ k) data⟩
  have hcounts {reg : Instr} {bit : Bool} (n : Word → Nat) (h : standsAlone reg = true)
      (hi : ∀ e p, evalCompute reg.compute (s.env e) p = shiftResult rn (countOut (n (p.fx rx))))
      (hn : ∀ x, n x ≤ 32 ∧ (∀ i, i < n x → x.getLsbD (31 - i) = bit) ∧ (n x < 32 → x.getLsbD (31 - n x) = !bit)) :
      counts reg bit :=
    ⟨fun p => n (p.fx rx), fun p => hn _,
      exec_shiftResult (out := fun _ p => BitVec.ofNat 32 (n (p.fx rx)))
        (fl := fun _ p => { sz := decide (n (p.fx rx) = 0), sv := decide (n (p.fx rx) = 32), ss := false }) h hi
        fun _ _ => rfl⟩
  refine ⟨?bclr, ?bset, ?btgl, ?leftz, ?lefto⟩
  case bclr =>
    refine hanswers (reg := .bclr rn rx ry) (op := .bclr) (bit := fun old here => old && !here)
      (fun x k => x &&& ~~~bitMask k) rfl (fun _ _ => rfl) (fun _ _ _ _ => rfl) fun x k i hi => ?_
    rw [BitVec.getLsbD_and, BitVec.getLsbD_not, bitMask_getLsbD k hi]
    simp [hi]
  case bset =>
    refine hanswers (reg := .bset rn rx ry) (op := .bset) (bit := fun old here => old || here)
      (fun x k => x ||| bitMask k) rfl (fun _ _ => rfl) (fun _ _ _ _ => rfl) fun x k i hi => ?_
    rw [BitVec.getLsbD_or, bitMask_getLsbD k hi]
  case btgl =>
    refine hanswers (reg := .btgl rn rx ry) (op := .btgl) (bit := fun old here => old ^^ here)
      (fun x k => x ^^^ bitMask k) rfl (fun _ _ => rfl) (fun _ _ _ _ => rfl) fun x k i hi => ?_
    rw [BitVec.getLsbD_xor, bitMask_getLsbD k hi]
  case leftz =>
    exact hcounts (reg := .leftz rn rx) (bit := false) leadingZeros rfl (fun _ _ => rfl) leadingZeros_spec
  case lefto =>
    exact hcounts (reg := .lefto rn rx) (bit := true) (fun x => leadingZeros (~~~x)) rfl (fun _ _ => rfl)
        leadingOnes_spec

/-! ### Fields (R501 to R507) -/

/-- The bits of a field of `len` bits moved up by `lo`. -/
theorem field_bits (x : Word) (lo len : Nat) {k : Nat} :
    (x.toNat % 2 ^ len * 2 ^ lo).testBit k = (decide (lo ≤ k ∧ k < lo + len) && x.getLsbD (k - lo)) := by
  rw [← Nat.shiftLeft_eq, Nat.testBit_shiftLeft, Nat.testBit_mod_two_pow]
  by_cases h : lo ≤ k
  · simp only [ge_iff_le, h, decide_true, Bool.true_and, true_and, show (k - lo < len) ↔ (k < lo + len) by omega]
    rfl
  · simp [h]

/-- A field of `n` bits below 1 bits up to bit 31. -/
theorem ones_above {w n k : Nat} (hw : w < 2 ^ n) (hn : n ≤ 32) (hk : k < 32) :
    (w + (2 ^ 32 - 2 ^ n)).testBit k = if k < n then w.testBit k else true := by
  have hsum : w + (2 ^ 32 - 2 ^ n) = 2 ^ n * (2 ^ (32 - n) - 1) + w := by
    rw [Nat.mul_sub, ← pow_add, show n + (32 - n) = 32 by omega]
    omega
  rw [hsum, Nat.testBit_two_pow_mul_add _ hw, Nat.testBit_two_pow_sub_one]
  split
  · rfl
  · exact decide_eq_true (by omega)

theorem ofNat_getLsbD (n : Nat) {k : Nat} (hk : k < 32) : (BitVec.ofNat 32 n).getLsbD k = n.testBit k := by
  rw [BitVec.getLsbD_ofNat]
  simp [hk]

/-- The bits of a deposit: the field's at their places, above them the sign where it extends. -/
theorem deposit_bit (x : Word) (lo len : Nat) (se : Bool) {k : Nat} (hk : k < 32) :
    (deposit x lo len se).getLsbD k = true ↔
      (lo ≤ k ∧ k < lo + len ∧ x.getLsbD (k - lo) = true) ∨
        (se = true ∧ (1 ≤ len ∧ lo + len ≤ 32) ∧ lo + len ≤ k ∧ x.getLsbD (len - 1) = true) := by
  have hfield := field_bits x lo len (k := k)
  unfold deposit
  dsimp only
  split
  next h =>
    simp only [Bool.and_eq_true, decide_eq_true_eq] at h
    have hw : x.toNat % 2 ^ len * 2 ^ lo < 2 ^ (lo + len) := by
      rw [Nat.add_comm, pow_add]
      exact Nat.mul_lt_mul_of_pos_right (Nat.mod_lt _ (Nat.two_pow_pos _)) (Nat.two_pow_pos _)
    rw [ofNat_getLsbD _ hk, ones_above hw h.1.2.2 hk, hfield]
    by_cases hlt : k < lo + len
    · simp [hlt, show ¬ lo + len ≤ k by omega]
    · simp [hlt, h.1.1, h.1.2.1, h.1.2.2, h.2, show lo + len ≤ k by omega]
  next h =>
    simp only [Bool.and_eq_true, decide_eq_true_eq] at h
    rw [ofNat_getLsbD _ hk, hfield]
    simp only [Bool.and_eq_true, decide_eq_true_eq]
    tauto

theorem extract_bit (x : Word) (lo len : Nat) (se : Bool) {k : Nat} (hk : k < 32) :
    (extract x lo len se).getLsbD k = true ↔
      (k < len ∧ x.getLsbD (k + lo) = true) ∨
        (se = true ∧ (1 ≤ len ∧ lo + len ≤ 32) ∧ len ≤ k ∧ x.getLsbD (lo + len - 1) = true) := by
  have hfield : (x.toNat / 2 ^ lo % 2 ^ len).testBit k = (decide (k < len) && x.getLsbD (k + lo)) := by
    rw [Nat.testBit_mod_two_pow, Nat.testBit_div_two_pow]
    rfl
  unfold extract
  dsimp only
  split
  next h =>
    simp only [Bool.and_eq_true, decide_eq_true_eq] at h
    rw [ofNat_getLsbD _ hk, ones_above (Nat.mod_lt _ (Nat.two_pow_pos _)) (by omega) hk, hfield]
    by_cases hlt : k < len
    · simp [hlt, show ¬ len ≤ k by omega]
    · simp [hlt, h.1.1, h.1.2.1, h.1.2.2, h.2, show len ≤ k by omega]
  next h =>
    simp only [Bool.and_eq_true, decide_eq_true_eq] at h
    rw [ofNat_getLsbD _ hk, hfield]
    simp only [Bool.and_eq_true, decide_eq_true_eq]
    tauto

/-- A field operation, from a register or an immediate. -/
theorem exec_fieldOp {reg : Instr} {op : FieldOp} {s : State} {rn rx ry : RegNum} (h : standsAlone reg = true)
    (hi : ∀ e p, evalCompute reg.compute (s.env e) p = shiftResult rn
      (fieldOp op (p.fx rn) (p.fx rx) ((p.fx ry).extractLsb' 0 6).toNat ((p.fx ry).extractLsb' 6 6).toNat))
    {out : Pe → Nat → Nat → Word} {fl : Pe → Nat → Nat → ShiftFlags}
    (ho : ∀ p lo len, fieldOp op (p.fx rn) (p.fx rx) lo len = ⟨out p lo len, fl p lo len⟩) (bit6 len6 : BitVec 6) :
    exec reg s = .next (onElements s fun p =>
        shiftTo p rn (out p ((p.fx ry).extractLsb' 0 6).toNat ((p.fx ry).extractLsb' 6 6).toNat)
          (fl p ((p.fx ry).extractLsb' 0 6).toNat ((p.fx ry).extractLsb' 6 6).toNat)) ∧
      exec (.shiftImm .always (.field op bit6 len6 rn rx)) s = .next (onElements s fun p =>
        shiftTo p rn (out p bit6.toNat len6.toNat) (fl p bit6.toNat len6.toNat)) :=
  ⟨exec_shiftResult
      (out := fun _ p => out p ((p.fx ry).extractLsb' 0 6).toNat ((p.fx ry).extractLsb' 6 6).toNat)
      (fl := fun _ p => fl p ((p.fx ry).extractLsb' 0 6).toNat ((p.fx ry).extractLsb' 6 6).toNat) h hi
      fun _ p => ho p _ _,
    exec_immResult (sh := .field op bit6 len6 rn rx)
      (o := fun _ p => fieldOp op (p.fx rn) (p.fx rx) bit6.toNat len6.toNat)
      (out := fun _ p => out p bit6.toNat len6.toNat) (fl := fun _ p => fl p bit6.toNat len6.toNat) (fun _ _ => rfl)
      fun _ p => ho p _ _⟩

/-- Settles O19. -/
theorem fieldOperations : Obligations.FieldOperations := by
  intro s rn rx ry bit6 len6 deposited extracted signed above aboveExt old answers
  have hanswers {reg : Instr} (op : FieldOp) {bits : Pe → Nat → Nat → Nat → Prop} (h : standsAlone reg = true)
      (hi : ∀ e p, evalCompute reg.compute (s.env e) p = shiftResult rn
        (fieldOp op (p.fx rn) (p.fx rx) ((p.fx ry).extractLsb' 0 6).toNat ((p.fx ry).extractLsb' 6 6).toNat))
      (hb : ∀ (p : Pe) (lo len k : Nat), k < 32 →
        ((fieldValue op (p.fx rn) (p.fx rx) lo len).getLsbD k = true ↔ bits p lo len k)) : answers reg op bits :=
    ⟨fun p lo len => fieldValue op (p.fx rn) (p.fx rx) lo len, hb,
      exec_fieldOp (out := fun p lo len => fieldValue op (p.fx rn) (p.fx rx) lo len)
        (fl := fun p lo len => { sz := decide (fieldValue op (p.fx rn) (p.fx rx) lo len = 0#32),
                                 sv := decide (32 < lo + len), ss := false })
        h hi (fun _ _ _ => rfl) bit6 len6⟩
  have hor {old x : Word} {k : Nat} {b : Prop} (h : x.getLsbD k = true ↔ b) :
      (old ||| x).getLsbD k = true ↔ old.getLsbD k = true ∨ b := by
    rw [BitVec.getLsbD_or, Bool.or_eq_true, h]
  have hplain {lo len k : Nat} (x : Word) (hk : k < 32) : (deposit x lo len false).getLsbD k = true ↔
      lo ≤ k ∧ k < lo + len ∧ x.getLsbD (k - lo) = true :=
    (deposit_bit x lo len false hk).trans (or_iff_left fun h => Bool.false_ne_true h.1)
  have hsigned {lo len k : Nat} (x : Word) (hk : k < 32) : (deposit x lo len true).getLsbD k = true ↔
      (lo ≤ k ∧ k < lo + len ∧ x.getLsbD (k - lo) = true) ∨
        ((1 ≤ len ∧ lo + len ≤ 32) ∧ lo + len ≤ k ∧ x.getLsbD (len - 1) = true) :=
    (deposit_bit x lo len true hk).trans (or_congr_right (and_iff_right rfl))
  refine ⟨?fdep, ?orFdep, ?fdepSe, ?orFdepSe, ?fext, ?fextSe⟩
  case fdep =>
    exact hanswers (reg := .fdep rn rx ry) .fdep (bits := deposited) rfl (fun _ _ => rfl) fun p lo len k hk =>
      hplain (p.fx rx) hk
  case orFdep =>
    exact hanswers (reg := .orFdep rn rx ry) .orFdep (bits := fun p lo len i => old p i ∨ deposited p lo len i) rfl
      (fun _ _ => rfl) fun p lo len k hk => hor (hplain (p.fx rx) hk)
  case fdepSe =>
    exact hanswers (reg := .fdepSe rn rx ry) .fdepSe (bits := fun p lo len i => deposited p lo len i ∨ above p lo len i)
      rfl (fun _ _ => rfl) fun p lo len k hk => hsigned (p.fx rx) hk
  case orFdepSe =>
    exact hanswers (reg := .orFdepSe rn rx ry) .orFdepSe
      (bits := fun p lo len i => old p i ∨ deposited p lo len i ∨ above p lo len i) rfl (fun _ _ => rfl)
      fun p lo len k hk => hor (hsigned (p.fx rx) hk)
  case fext =>
    exact hanswers (reg := .fext rn rx ry) .fext (bits := extracted) rfl (fun _ _ => rfl) fun p lo len k hk =>
      (extract_bit (p.fx rx) lo len false hk).trans (or_iff_left fun h => Bool.false_ne_true h.1)
  case fextSe =>
    exact hanswers (reg := .fextSe rn rx ry) .fextSe
      (bits := fun p lo len i => extracted p lo len i ∨ aboveExt p lo len i) rfl (fun _ _ => rfl) fun p lo len k hk =>
      (extract_bit (p.fx rx) lo len true hk).trans (or_congr_right (and_iff_right rfl))

end Sys2Proof.Machine
end

section
/-! Bit test, exponent, and packing of short floats (47_shifter.md R500, R508, R509, R512, R513). -/

-- One proof at a time: each thread that elaborates beside another reserves a gigabyte of the check's memory.
set_option Elab.async false

namespace Sys2Proof.Machine

/-! ### Test and exponent -/

theorem apply_test (p : Pe) (fl : ShiftFlags) :
    p.apply { PeResult.none with shf := some fl } = { p with astat := fl.into p.astat } := by
  simp [Pe.apply, PeResult.none, PeResult.astat, PeResult.sticky]

/-- SZ of BTST is clear exactly for a 1 bit at the position. -/
theorem btst_bit (x : Word) (k : Int) :
    decide (x &&& bitMask k = 0#32) = false ↔ ∃ i : Nat, i < 32 ∧ (i : Int) = k ∧ x.getLsbD i = true := by
  rw [decide_eq_false_iff_not]
  constructor
  · intro h
    by_contra hn
    refine h (BitVec.eq_of_getLsbD_eq fun i hi => ?_)
    rw [BitVec.getLsbD_and, bitMask_getLsbD k hi, BitVec.getLsbD_zero]
    by_contra hb
    simp only [Bool.not_eq_false, Bool.and_eq_true, decide_eq_true_eq] at hb
    exact hn ⟨i, hi, hb.2, hb.1⟩
  · rintro ⟨i, hi, hk, hb⟩ h
    have h0 := congrArg (BitVec.getLsbD · i) h
    simp only [BitVec.getLsbD_and, bitMask_getLsbD k hi, BitVec.getLsbD_zero, hb, hk, decide_true] at h0
    exact Bool.false_ne_true h0.symm

/-- The leading bits equal to the sign. -/
theorem leadingSigns_spec (x : Word) :
    leadingSigns x ≤ 32 ∧ (∀ i, i < leadingSigns x → x.getLsbD (31 - i) = x.getLsbD 31) ∧
      (leadingSigns x < 32 → x.getLsbD (31 - leadingSigns x) = !x.getLsbD 31) := by
  unfold leadingSigns
  cases h : x.getLsbD 31
  · exact leadingZeros_spec x
  · exact leadingOnes_spec x

/-! ### Packing (R512) -/

/-- The value FPACK rounds, by its exponent and fraction. -/
def packExact (e f : Nat) : ℚ :=
  if 135 < e then 2 ^ 15
  else if 120 < e then ((e : ℚ) - 120) * 2 ^ 11 + (f : ℚ) / 2 ^ 12
  else if 109 < e then (2 ^ 23 + (f : ℚ)) / 2 ^ (133 - e)
  else 0

theorem packExact_of_source {e f m d : Nat} (h : packSource e f = some (m, d)) : packExact e f = (m : ℚ) / 2 ^ d := by
  unfold packSource at h
  unfold packExact
  split at h
  next hr =>
    obtain ⟨rfl, rfl⟩ : (e - 120) * 2 ^ 23 + f = m ∧ 12 = d := by simpa using h
    rw [if_neg (by omega), if_pos hr.1]
    push_cast [Nat.cast_sub (show 120 ≤ e by omega)]
    ring
  next hr =>
    split at h
    next hr' =>
      obtain ⟨rfl, rfl⟩ : 2 ^ 23 + f = m ∧ 133 - e = d := by simpa using h
      rw [if_neg (by omega), if_neg (by omega), if_pos hr'.1]
      push_cast
      rfl
    next => cases h

theorem packExact_of_none {e f : Nat} (h : packSource e f = none) : packExact e f = if 135 < e then 2 ^ 15 else 0 := by
  unfold packSource at h
  unfold packExact
  split at h
  next => cases h
  next hr =>
    split at h
    next => cases h
    next hr' =>
      split
      · rfl
      · rw [if_neg (by omega), if_neg (by omega)]

theorem half_added (m d : Nat) : (m : ℚ) / 2 ^ d + 1 / 2 = ((2 * m + 2 ^ d : Nat) : ℚ) / (2 ^ (d + 1) : Nat) := by
  push_cast
  rw [pow_succ]
  field_simp

/-- The magnitude is the value with half a unit added, the fraction dropped. -/
theorem packMagnitude_eq (e f : Nat) : packMagnitude e f = ⌊packExact e f + 1 / 2⌋₊ := by
  unfold packMagnitude
  rcases h : packSource e f with _ | ⟨m, d⟩
  · rw [packExact_of_none h]
    dsimp only
    split
    · norm_num
    · norm_num
  · rw [packExact_of_source h, half_added, Nat.floor_div_eq_div]

theorem tie_iff (m d : Nat) : 2 * (m % 2 ^ d) = 2 ^ d ↔ 2 ^ (d + 1) ∣ 2 * m + 2 ^ d := by
  have hdiv := Nat.div_add_mod m (2 ^ d)
  have hlt := Nat.mod_lt m (Nat.two_pow_pos d)
  have hp := Nat.two_pow_pos d
  generalize m / 2 ^ d = q at hdiv
  generalize m % 2 ^ d = r at *
  rw [pow_succ, ← hdiv]
  generalize 2 ^ d = D at *
  constructor
  · intro h
    exact ⟨q + 1, by linear_combination h⟩
  · rintro ⟨c, hc⟩
    have hhi : c < q + 2 := Nat.lt_of_mul_lt_mul_left (a := D * 2) (by linarith)
    have hlo : 2 * q < 2 * c := Nat.lt_of_mul_lt_mul_left (a := D) (by linarith)
    obtain rfl : c = q + 1 := by omega
    linarith

/-- On a tie the value with half a unit added is the magnitude. -/
theorem packTie_exact {e f : Nat} (h : packTie e f = true) : (packMagnitude e f : ℚ) = packExact e f + 1 / 2 := by
  unfold packTie at h
  unfold packMagnitude
  rcases hs : packSource e f with _ | ⟨m, d⟩
  · rw [hs] at h
    cases h
  · rw [hs] at h
    dsimp only at h ⊢
    rw [decide_eq_true_iff, tie_iff] at h
    rw [packExact_of_source hs, half_added, Nat.cast_div h (by positivity)]

/-- The bits FPACK writes, as a number. -/
theorem packBits_toNat (env : Env) (e f : Nat) :
    (packBits env e f).toNat / 2 = min (packMagnitude e f) 0x7FFF / 2 ∧
      (packTie e f = false → (packBits env e f).toNat = min (packMagnitude e f) 0x7FFF) := by
  unfold packBits
  dsimp only
  have hb := (Config.freeBit (.fpackTie env.e) env.clock).toNat_le
  have hmin := Nat.min_le_right (packMagnitude e f) 0x7FFF
  generalize min (packMagnitude e f) 0x7FFF = n at *
  rw [BitVec.toNat_ofNat]
  split
  next h => exact ⟨by omega, fun h' => absurd (h.symm.trans h') nofun⟩
  next h => exact ⟨by omega, fun _ => by omega⟩

/-! ### Unpacking (R513) -/

/-- Only the low 16 bits are unpacked. -/
theorem unpackValue_low (x : Word) : unpackValue (0#16 ++ x.extractLsb' 0 16) = unpackValue x := by
  have hpart (lo n : Nat) (h : lo + n ≤ 16) :
      (0#16 ++ x.extractLsb' 0 16 : Word).extractLsb' lo n = x.extractLsb' lo n := by
    ext i hi
    rw [BitVec.getElem_extractLsb', BitVec.getElem_extractLsb', BitVec.getLsbD_append]
    simp [show lo + i < 16 by omega]
  unfold unpackValue
  rw [hpart 15 1 (by omega), hpart 11 4 (by omega), hpart 0 11 (by omega)]

/-- The parts of a short float. -/
theorem short_parts (h : BitVec 16) (lo n : Nat) (hn : lo + n ≤ 16) :
    (0#16 ++ h : Word).extractLsb' lo n = h.extractLsb' lo n := by
  ext i hi
  rw [BitVec.getElem_extractLsb', BitVec.getElem_extractLsb', BitVec.getLsbD_append]
  simp [show lo + i < 16 by omega]

section
variable {h : BitVec 16}

theorem unpack_normal (hp : (h.extractLsb' 11 4).toNat ≠ 0) :
    unpackValue (0#16 ++ h) = h.extractLsb' 15 1 ++ (BitVec.ofNat 8 ((h.extractLsb' 11 4).toNat + 120) ++
      BitVec.ofNat 23 ((h.extractLsb' 0 11).toNat * 2 ^ 12)) := by
  unfold unpackValue
  dsimp only
  rw [short_parts h 15 1 (by omega), short_parts h 11 4 (by omega), short_parts h 0 11 (by omega), if_neg hp]

theorem unpack_zero (hp : (h.extractLsb' 11 4).toNat = 0) (hf : (h.extractLsb' 0 11).toNat = 0) :
    unpackValue (0#16 ++ h) = h.extractLsb' 15 1 ++ 0#31 := by
  unfold unpackValue
  dsimp only
  rw [short_parts h 15 1 (by omega), short_parts h 11 4 (by omega), short_parts h 0 11 (by omega), if_pos hp, if_pos hf]

/-- A denormal is normalized. -/
theorem unpack_denormal (hp : (h.extractLsb' 11 4).toNat = 0) {n : Nat} (hn : n < 11)
    (hlo : 2 ^ (10 - n) ≤ (h.extractLsb' 0 11).toNat) (hhi : (h.extractLsb' 0 11).toNat < 2 ^ (11 - n)) :
    unpackValue (0#16 ++ h) = h.extractLsb' 15 1 ++ (BitVec.ofNat 8 (120 - n) ++
      BitVec.ofNat 23 (((h.extractLsb' 0 11).toNat - 2 ^ (10 - n)) * 2 ^ (13 + n))) := by
  have hf : (h.extractLsb' 0 11).toNat ≠ 0 := by
    have := Nat.two_pow_pos (10 - n)
    omega
  have hlog : Nat.log2 (h.extractLsb' 0 11).toNat = 10 - n :=
    (Nat.log2_eq_iff hf).mpr ⟨hlo, by rwa [show 10 - n + 1 = 11 - n by omega]⟩
  unfold unpackValue
  dsimp only
  rw [short_parts h 15 1 (by omega), short_parts h 11 4 (by omega), short_parts h 0 11 (by omega), if_pos hp, if_neg hf,
    hlog, show 10 - (10 - n) = n by omega]

end

/-- A word of a sign, an exponent and a fraction, as FPACK reads it. -/
theorem fpackOp_fields (env : Env) (s : Bool) (e : BitVec 8) (f : BitVec 23) :
    fpackOp env (toFx (BitVec.ofBool s ++ (e ++ f))) =
      ⟨0#16 ++ (BitVec.ofBool s ++ packBits env e.toNat f.toNat),
        { sz := false, sv := decide (0x7FFF < packMagnitude e.toNat f.toNat), ss := false }⟩ := by
  have hexp : (toFx (BitVec.ofBool s ++ (e ++ f))).extractLsb' 31 8 = e := by
    ext i hi
    rw [toFx, BitVec.getElem_extractLsb', BitVec.getLsbD_append, BitVec.getLsbD_append, BitVec.getLsbD_append,
      if_neg (by omega), if_pos (by omega), if_neg (by omega), ← BitVec.getLsbD_eq_getElem]
    congr 1
    omega
  have hfrac : (toFx (BitVec.ofBool s ++ (e ++ f))).extractLsb' 8 23 = f := by
    ext i hi
    rw [toFx, BitVec.getElem_extractLsb', BitVec.getLsbD_append, BitVec.getLsbD_append, BitVec.getLsbD_append,
      if_neg (by omega), if_pos (by omega), if_pos (by omega), ← BitVec.getLsbD_eq_getElem]
    congr 1
    omega
  have hsign : fsign (toFx (BitVec.ofBool s ++ (e ++ f))) = s := by
    rw [fsign, toFx_sign, BitVec.getLsbD_append]
    simp
  unfold fpackOp fexp
  rw [hexp, hfrac, hsign]

/-- Packing what has no tie and no overflow. -/
theorem packBits_exact (env : Env) {e f m d n : Nat} (hs : packSource e f = some (m, d)) (hm : m = n * 2 ^ d)
    (hn : n ≤ 0x7FFF) : packMagnitude e f = n ∧ packBits env e f = BitVec.ofNat 15 n := by
  have hmag : packMagnitude e f = n := by
    unfold packMagnitude
    rw [hs]
    dsimp only
    rw [hm, show 2 * (n * 2 ^ d) + 2 ^ d = 2 ^ d + 2 ^ (d + 1) * n by rw [pow_succ]; ring,
      Nat.add_mul_div_left _ _ (Nat.two_pow_pos _), Nat.div_eq_of_lt (Nat.pow_lt_pow_right (by omega) (by omega)),
      Nat.zero_add]
  have htie : packTie e f = false := by
    unfold packTie
    rw [hs]
    dsimp only
    rw [hm, Nat.mul_mod_left, decide_eq_false_iff_not]
    have := Nat.two_pow_pos d
    omega
  refine ⟨hmag, ?_⟩
  unfold packBits
  dsimp only
  rw [htie, if_neg Bool.false_ne_true, hmag, Nat.min_eq_left hn]

/-- A short float is its sign, exponent and fraction. -/
theorem short_eq (h : BitVec 16) :
    h = h.extractLsb' 15 1 ++
      BitVec.ofNat 15 ((h.extractLsb' 11 4).toNat * 2 ^ 11 + (h.extractLsb' 0 11).toNat) := by
  have hlow : BitVec.ofNat 15 ((h.extractLsb' 11 4).toNat * 2 ^ 11 + (h.extractLsb' 0 11).toNat) =
      h.extractLsb' 0 15 := by
    apply BitVec.eq_of_toNat_eq
    rw [BitVec.toNat_ofNat, BitVec.extractLsb'_toNat, BitVec.extractLsb'_toNat, BitVec.extractLsb'_toNat,
      Nat.shiftRight_eq_div_pow, Nat.shiftRight_zero]
    omega
  rw [hlow]
  ext i hi
  rw [BitVec.getElem_append]
  split
  · simp [BitVec.getLsbD_eq_getElem hi]
  · obtain rfl : i = 15 := by omega
    simp

theorem bit_ofBool (x : BitVec 1) : x = BitVec.ofBool (x.getLsbD 0) := by
  ext i hi
  obtain rfl : i = 0 := by omega
  simp

/-- Packing undoes unpacking. -/
theorem pack_unpack (env : Env) (h : BitVec 16) :
    fpackOp env (toFx (unpackValue (0#16 ++ h))) = ⟨0#16 ++ h, { sz := false, sv := false, ss := false }⟩ := by
  have hpe := (h.extractLsb' 11 4).isLt
  have hpf := (h.extractLsb' 0 11).isLt
  have hshort := short_eq h
  have hpacked {e f : Nat} (he : e < 2 ^ 8) (hf : f < 2 ^ 23)
      (hu : unpackValue (0#16 ++ h) = h.extractLsb' 15 1 ++ (BitVec.ofNat 8 e ++ BitVec.ofNat 23 f))
      (hm : packMagnitude e f ≤ 0x7FFF)
      (hb : packBits env e f =
        BitVec.ofNat 15 ((h.extractLsb' 11 4).toNat * 2 ^ 11 + (h.extractLsb' 0 11).toNat)) :
      fpackOp env (toFx (unpackValue (0#16 ++ h))) = ⟨0#16 ++ h, { sz := false, sv := false, ss := false }⟩ := by
    have hop := fpackOp_fields env ((h.extractLsb' 15 1).getLsbD 0) (BitVec.ofNat 8 e) (BitVec.ofNat 23 f)
    rw [← bit_ofBool, ← hu, BitVec.toNat_ofNat, BitVec.toNat_ofNat, Nat.mod_eq_of_lt he, Nat.mod_eq_of_lt hf, hb, ←
        hshort,
      decide_eq_false (by omega)] at hop
    exact hop
  generalize hpe' : (h.extractLsb' 11 4).toNat = pe at *
  generalize hpf' : (h.extractLsb' 0 11).toNat = pf at *
  by_cases hp : pe = 0
  · by_cases hf : pf = 0
    · refine hpacked (e := 0) (f := 0) (by omega) (by omega) ((unpack_zero (hpe'.trans hp) (hpf'.trans hf)).trans rfl)
          ?_ ?_
      · decide
      · subst hp hf
        rfl
    · have hlo := Nat.log2_self_le hf
      have hhi := Nat.lt_log2_self (n := pf)
      have hlog : Nat.log2 pf < 11 := (Nat.log2_lt hf).mpr hpf
      have hdenormal := unpack_denormal (hpe'.trans hp) (n := 10 - Nat.log2 pf) (by omega)
      rw [hpf', show 10 - (10 - Nat.log2 pf) = Nat.log2 pf by omega, show 11 - (10 - Nat.log2 pf) = Nat.log2 pf + 1 by
          omega,
        show 13 + (10 - Nat.log2 pf) = 23 - Nat.log2 pf by omega,
        show 120 - (10 - Nat.log2 pf) = 110 + Nat.log2 pf by omega] at hdenormal
      have hu := hdenormal hlo hhi
      have hunit : 2 ^ Nat.log2 pf * 2 ^ (23 - Nat.log2 pf) = 2 ^ 23 := by
        rw [← pow_add]
        congr 1
        omega
      obtain ⟨rest, hrest⟩ := Nat.exists_eq_add_of_le hlo
      have hsub : pf - 2 ^ Nat.log2 pf = rest := by omega
      rw [hsub] at hu
      have hsmall : rest * 2 ^ (23 - Nat.log2 pf) < 2 ^ 23 := by
        rw [← hunit]
        exact Nat.mul_lt_mul_of_pos_right (by rw [pow_succ] at hhi; omega) (Nat.two_pow_pos _)
      have hsrc : packSource (110 + Nat.log2 pf) (rest * 2 ^ (23 - Nat.log2 pf)) =
          some (pf * 2 ^ (23 - Nat.log2 pf), 23 - Nat.log2 pf) := by
        unfold packSource
        rw [if_neg (by omega), if_pos (by omega), ← hunit, ← Nat.add_mul, ← hrest,
          show 133 - (110 + Nat.log2 pf) = 23 - Nat.log2 pf by omega]
      obtain ⟨hmag, hbits⟩ := packBits_exact env hsrc rfl (by omega)
      refine hpacked (by omega) hsmall hu (by omega) ?_
      rw [hbits, hp, Nat.zero_mul, Nat.zero_add]
  · have hsrc : packSource (pe + 120) (pf * 2 ^ 12) = some (pe * 2 ^ 23 + pf * 2 ^ 12, 12) := by
      unfold packSource
      rw [if_pos (by omega), Nat.add_sub_cancel]
    obtain ⟨hmag, hbits⟩ := packBits_exact env hsrc (n := pe * 2 ^ 11 + pf) (by ring) (by omega)
    exact hpacked (by omega) (by omega) (unpack_normal (hpe' ▸ hp) |>.trans (by rw [hpe', hpf'])) (by omega) hbits

theorem expOut_sign (x : Word) (ss : Bool) :
    expOut (1 - (leadingSigns x : Int)) ss = ⟨BitVec.ofInt 32 (1 - (leadingSigns x : Int)),
      { sz := decide (leadingSigns x = 1), sv := false, ss := ss }⟩ := by
  have h : (1 - (leadingSigns x : Int) = 0) ↔ leadingSigns x = 1 := by omega
  rw [expOut, decide_eq_decide.mpr h]

/-- The fraction of a short float above 12 zeros. -/
theorem pow12_append (f : BitVec 11) : BitVec.ofNat 23 (f.toNat * 2 ^ 12) = f ++ 0#12 := by
  have hf := f.isLt
  apply BitVec.eq_of_toNat_eq
  rw [BitVec.toNat_ofNat, BitVec.toNat_append, Nat.shiftLeft_eq, BitVec.toNat_ofNat, Nat.zero_mod, Nat.or_zero]
  omega

/-- Settles O20. -/
theorem testsExponentsAndPacking : Obligations.TestsExponentsAndPacking := by
  refine ⟨fun s rn rx ry data => ⟨?btst, ?exp, ?fpack, ?funpack⟩, pack_unpack⟩
  case btst =>
    refine ⟨fun p k => decide (p.fx rx &&& bitMask k = 0#32), fun p k => btst_bit _ k, ?reg, ?imm⟩
    case reg => exact exec_onElements (i := .btst rx ry) rfl List.nodup_nil fun _ p => apply_test p _
    case imm =>
      rw [exec_shiftImm_always]
      unfold shifted onElements allElements
      simp only [if_true, evalShiftImm, apply_test]
      rfl
  case exp =>
    refine ⟨fun p => leadingSigns (p.fx rx), fun p => leadingSigns_spec _, ?exp, ?expEx⟩
    case exp =>
      refine exec_shiftResult (i := .exp rn rx) (out := fun _ p => BitVec.ofInt 32 (1 - (leadingSigns (p.fx rx) : Int)))
        (fl := fun _ p => { sz := decide (leadingSigns (p.fx rx) = 1), sv := false, ss := (p.fx rx).getLsbD 31 })
        rfl (fun _ _ => rfl) fun _ p => expOut_sign (p.fx rx) _
    case expEx =>
      exact exec_shiftResult (i := .expEx rn rx)
        (out := fun _ p => BitVec.ofInt 32 (if avOf p.astat then 1 else 1 - (leadingSigns (p.fx rx) : Int)))
        (fl := fun _ p => { sz := decide ((if avOf p.astat then 1 else 1 - (leadingSigns (p.fx rx) : Int)) = 0),
                            sv := false, ss := avOf p.astat != (p.fx rx).getLsbD 31 })
        rfl (fun _ _ => rfl) fun _ _ => rfl
  case fpack =>
    refine ⟨fun el p => packBits (s.env el) (fexp p.rf[rx]) (p.rf[rx].extractLsb' 8 23).toNat, ?_⟩
    intro exact near
    have hnear (p : Pe) : packMagnitude (fexp p.rf[rx]) (p.rf[rx].extractLsb' 8 23).toNat = near p := packMagnitude_eq
        _ _
    refine ⟨fun el p => ⟨fun h => ?plain, fun _ => ?tie⟩, ?exec⟩
    case plain =>
      rw [← hnear p] at h ⊢
      exact (packBits_toNat ..).2 (Bool.eq_false_iff.mpr fun ht => h (packTie_exact ht))
    case tie =>
      rw [← hnear p]
      exact (packBits_toNat ..).1
    case exec =>
      refine exec_shiftResult (i := .fpack rn rx)
        (out := fun el p => 0#16 ++ (BitVec.ofBool (p.rf[rx].getLsbD 39) ++
          packBits (s.env el) (fexp p.rf[rx]) (p.rf[rx].extractLsb' 8 23).toNat))
        (fl := fun _ p => { sz := false, sv := decide (0x7FFF < near p), ss := false }) rfl (fun _ _ => rfl) fun _ p =>
            ?_
      rw [← hnear p]
      rfl
  case funpack =>
    refine ⟨fun h => unpackValue (0#16 ++ h), fun h => ⟨fun hp => ?normal, fun hp hf => unpack_zero hp ?_,
      fun hp n => unpack_denormal hp⟩, ?exec⟩
    case normal =>
      refine (unpack_normal (by omega)).trans ?_
      rw [pow12_append]
    case exec =>
      refine exec_shiftResult (i := .funpack rn rx) (out := fun _ p => unpackValue (0#16 ++ (p.fx rx).extractLsb' 0 16))
        (fl := fun _ _ => { sz := false, sv := false, ss := false }) rfl (fun _ _ => rfl) fun _ p => ?_
      rw [unpackValue_low]
      rfl
    · rw [hf]
      rfl

end Sys2Proof.Machine
end

section
/-!
The end of a loop (41_program_flow.md R282): what the sequencer does at the end address of the innermost loop, for a
counter loop over all its passes and for a condition loop. -/

-- One proof at a time: each thread that elaborates beside another reserves a gigabyte of the check's memory.
set_option Elab.async false

namespace Sys2Proof.Machine

/-! ### The choice of the next PC without a branch -/

/-- Where no loop ends control goes on to the next address. -/
theorem sequence_advance {s : State} (hr : s.request = none) (hd : s.dbr = none)
    (hl : ∀ e rest, s.loops = e :: rest → e.endAddr ≠ s.pc) : Machine.sequence s = .ok (advance s) := by
  unfold Machine.sequence
  rw [hr, hd]
  unfold fallThrough
  cases he : s.loops with
  | nil => rfl
  | cons e rest => exact if_neg (hl e rest he)

/-- At the end address of the innermost loop the sequencer refuses a misplaced loop, and settles any other one's end. -/
theorem sequence_atEnd {s : State} {e : LoopEntry} {rest : List LoopEntry} (hl : s.loops = e :: rest)
    (he : e.endAddr = s.pc) (hr : s.request = none) (hd : s.dbr = none) :
    Machine.sequence s = if loopMisplaced s e rest then refuse .loopEnd else loopEnd s e rest := by
  unfold Machine.sequence
  rw [hr, hd]
  unfold fallThrough
  rw [hl]
  exact if_pos he

theorem repeatLoop_cons {s : State} {top : PcEntry} {more : List PcEntry} (hp : s.pcStack = top :: more) :
    repeatLoop s = .ok (goTo s top.addr) := by
  unfold repeatLoop
  rw [hp]

theorem leaveLoop_cons {s : State} {e : LoopEntry} {rest : List LoopEntry} {top : PcEntry} {more : List PcEntry}
    (hl : s.loops = e :: rest) (hp : s.pcStack = top :: more) :
    leaveLoop s = .ok { s with pc := s.pc + 1#24, straight := true, loops := rest, pcStack := more } := by
  unfold leaveLoop
  rw [abortLoop_of_ne (by simp [hl]) (by simp [hp]), Run.ok_bind, hl, hp]
  rfl

/-! ### Where a loop's body can start (U22) -/

/-- A loop is misplaced when another one ends where it does or its end is below every first body address it can have. -/
theorem loopMisplaced_eq_true {s : State} {e : LoopEntry} {rest : List LoopEntry} :
    loopMisplaced s e rest = true ↔ (∃ f ∈ rest, f.endAddr = e.endAddr) ∨
      (firstBodies s e rest ≠ [] ∧ ∀ b ∈ firstBodies s e rest, (e.endAddr - b).toInt < 0) := by
  unfold loopMisplaced
  rw [Bool.or_eq_true, endBelowStart_eq_true, List.any_eq_true]
  simp only [decide_eq_true_eq]

/-- The counter of a loop, and where PC is, say nothing about where its body starts. -/
theorem loopMisplaced_count {s : State} {e : LoopEntry} {rest : List LoopEntry} (hl : s.loops = e :: rest)
    (n : Word) (a : ProgAddr) (b : Bool) :
    loopMisplaced { s with pc := a, straight := b, loops := { e with count := n } :: rest } { e with count := n } rest =
      loopMisplaced s e rest := by
  cases s
  subst hl
  rfl

/-- When the PC stack's top can be the start of the innermost loop's body: no DO of it pushed one that is left, software
pushed the top, and the other loops have their own. -/
theorem mem_firstBodies_of_software {s : State} {e : LoopEntry} {rest : List LoopEntry} {top : PcEntry}
    {more : List PcEntry} (hp : s.pcStack = top :: more) (hs : hasStart s.pcStack e = false)
    (ht : top.source = .software) (hrest : ∀ f ∈ rest, hasStart s.pcStack f = true) :
    top.addr ∈ firstBodies s e rest := by
  have hcount : rest.countP (fun f => !hasStart s.pcStack f) = 0 := List.countP_eq_zero.2 fun f hf => by simp [hrest f
      hf]
  have hloose : top.isLoose s.loops = true := by
    have hstart : ∀ f, top.isStartOf f = false := fun f => by
      unfold PcEntry.isStartOf
      split <;> simp [ht]
    simp [PcEntry.isLoose, ht, hstart]
  have hown : top ∈ ownStarts s e rest := by
    unfold ownStarts
    simp only [hs, Bool.false_eq_true, if_false, hcount, Nat.sub_zero, List.take_length, List.mem_filter]
    exact ⟨by simp [hp], hloose⟩
  have hmem : top.addr ∈ poppedStart s e ++ (ownStarts s e rest).map PcEntry.addr :=
    List.mem_append_right _ (List.mem_map_of_mem hown)
  unfold firstBodies
  simp only [List.isEmpty_iff, if_neg (List.ne_nil_of_mem hmem), List.mem_append_left _ hmem]

/-- Beside another address, the top of the PC stack can be a first body address unless it is a return address. -/
theorem top_mem_firstBodies {s : State} {e : LoopEntry} {rest : List LoopEntry} {top : PcEntry} {more : List PcEntry}
    (hp : s.pcStack = top :: more) (hne : firstBodies s e rest ≠ []) (ht : top.source ≠ .call) :
    top.addr ∈ firstBodies s e rest := by
  unfold firstBodies at hne ⊢
  generalize poppedStart s e ++ (ownStarts s e rest).map PcEntry.addr = own at hne ⊢
  by_cases hempty : own.isEmpty
  · simp [hempty] at hne
  · by_cases hmem : top.addr ∈ own <;> simp [hempty, hp, ht, hmem]

/-! ### The bits of MODE1 that a condition reads (30_encoding.md R172, R173) -/

/-- Two words have a bit in common exactly when their conjunction is not zero. -/
theorem and_ne_zero_iff {a b : Word} : a &&& b ≠ 0#32 ↔ ∃ k, a.getLsbD k = true ∧ b.getLsbD k = true := by
  rw [Ne, BitVec.eq_of_getLsbD_eq_iff]
  simp only [BitVec.getLsbD_and, BitVec.getLsbD_zero, Bool.and_eq_false_imp, not_forall, Bool.not_eq_false, exists_prop]
  refine exists_congr fun k => ⟨fun ⟨_, ha, hb⟩ => ⟨ha, hb⟩, fun ⟨ha, hb⟩ => ⟨BitVec.lt_of_getLsbD ha, ha, hb⟩⟩

theorem getLsbD_maskIf (go : Bool) (w : Word) (k : Nat) : (maskIf go w).getLsbD k = (go && w.getLsbD k) := by
  unfold maskIf
  cases go <;> simp

/-- A single bit, shifted to its place. -/
theorem getLsbD_one_shiftLeft {n k : Nat} (hn : n < 32) : (1#32 <<< n).getLsbD k = decide (k = n) := by
  simp only [BitVec.getLsbD_shiftLeft, BitVec.getLsbD_one]
  by_cases h : k = n
  · simp [h, hn]
  · simp [h]
    omega

/-- The conditions that compare as numbers. -/
def orderedConds : List Cond := [.lt, .le, .ge, .gt]

/-- The conditions that look at an element's flags. -/
def elementConds : List Cond :=
  orderedConds ++ [.eq, .ac, .av, .mv, .ms, .sv, .sz, .tf, .ne, .notAc, .notAv, .notMv, .notMs, .notSv, .notSz, .notTf]

theorem readsAlusat_iff_mem (c : Cond) : readsAlusat c = true ↔ c ∈ orderedConds := by
  cases c <;> simp [readsAlusat, orderedConds]

theorem perElement_iff_mem (c : Cond) : perElement c = true ↔ c ∈ elementConds := by
  cases c <;> simp [perElement, elementConds, orderedConds]

/-- A condition depends on a changed bit of MODE1: ALUSAT where it compares, PEYEN where the elements can differ. -/
theorem condDeps_and_ne_zero (c : Cond) (w : Word) :
    condDeps c &&& w ≠ 0#32 ↔
      (w.getLsbD 13 = true ∧ c ∈ orderedConds) ∨ (w.getLsbD 21 = true ∧ c ∈ elementConds) := by
  have hbit : ∀ k, (condDeps c).getLsbD k = true ↔ k = 21 ∧ c ∈ elementConds ∨ k = 13 ∧ c ∈ orderedConds := by
    intro k
    unfold condDeps peyenBit alusatBit
    rw [BitVec.getLsbD_or, getLsbD_maskIf, getLsbD_maskIf, getLsbD_one_shiftLeft (by omega),
      getLsbD_one_shiftLeft (by omega), Bool.or_eq_true, Bool.and_eq_true, Bool.and_eq_true, decide_eq_true_eq,
      decide_eq_true_eq, perElement_iff_mem, readsAlusat_iff_mem, and_comm, and_comm (b := k = 13)]
  rw [and_ne_zero_iff]
  constructor
  · rintro ⟨k, hk, hw⟩
    obtain ⟨rfl, hc⟩ | ⟨rfl, hc⟩ := (hbit k).1 hk
    · exact .inr ⟨hw, hc⟩
    · exact .inl ⟨hw, hc⟩
  · rintro (⟨hw, hc⟩ | ⟨hw, hc⟩)
    · exact ⟨13, (hbit 13).2 (.inr ⟨rfl, hc⟩), hw⟩
    · exact ⟨21, (hbit 21).2 (.inl ⟨rfl, hc⟩), hw⟩

/-! ### Condition loops -/

section
variable {s : State} {e : LoopEntry} {rest : List LoopEntry} {top : PcEntry} {more : List PcEntry}

/-- FOREVER goes back. -/
theorem loopEnd_forever (hp : s.pcStack = top :: more) (ht : e.term = .always) :
    loopEnd s e rest = .ok (goTo s top.addr) := by
  unfold loopEnd
  rw [if_neg (by simp [ht]), if_pos ht, repeatLoop_cons hp]

/-- Right after a change of a MODE1 bit that the test reads it is refused. -/
theorem loopEnd_changedMode (ha : e.term ≠ .always) (hl : e.term ≠ .lce)
    (hm : condDeps e.term &&& s.mode1Changed ≠ 0#32) : loopEnd s e rest = refuse .modeJustChanged := by
  unfold loopEnd
  rw [if_neg hl, if_neg ha, if_pos hm]

theorem settled_eq_true {term : Cond} :
    settled s term = true ↔ ∀ v ∈ s.history, termHolds term v = termHolds term s.view := by
  unfold settled
  rw [List.all_eq_true]
  simp only [beq_iff_eq]

/-- A condition that did not change over the last instructions leaves the loop or goes back. -/
theorem loopEnd_settled (hs : s.loops = e :: rest) (hp : s.pcStack = top :: more) (ha : e.term ≠ .always)
    (hl : e.term ≠ .lce) (hm : condDeps e.term &&& s.mode1Changed = 0#32) (hv : settled s e.term = true) :
    loopEnd s e rest =
      .ok (if termHolds e.term s.view then
          { s with pc := s.pc + 1#24, straight := true, loops := rest, pcStack := more }
        else goTo s top.addr) := by
  unfold loopEnd
  rw [if_neg hl, if_neg ha, if_neg (not_not.2 hm), hv, if_neg (by simp), leaveLoop_cons hs hp, repeatLoop_cons hp,
    apply_ite Except.ok]

/-- The test of a condition that changed is refused. -/
theorem loopEnd_unsettled (ha : e.term ≠ .always) (hl : e.term ≠ .lce)
    (hm : condDeps e.term &&& s.mode1Changed = 0#32) (hv : settled s e.term = false) :
    loopEnd s e rest = refuse .loopEnd := by
  unfold loopEnd
  rw [if_neg hl, if_neg ha, if_neg (not_not.2 hm), hv, if_pos (by simp)]

end

/-! ### Counter loops -/

section
variable {s : State} {e : LoopEntry} {rest : List LoopEntry} {top : PcEntry} {more : List PcEntry}

/-- The end of a counter loop that has more than one pass to go. -/
theorem sequence_counter_repeat (hl : s.loops = e :: rest) (hp : s.pcStack = top :: more) (ht : e.term = .lce)
    (he : e.endAddr = s.pc) (hr : s.request = none) (hd : s.dbr = none) (hm : loopMisplaced s e rest = false)
    (hc : e.count ≠ 1#32) :
    Machine.sequence s =
      .ok { s with pc := top.addr, straight := false, loops := { e with count := e.count - 1#32 } :: rest } := by
  rw [sequence_atEnd hl he hr hd, hm, if_neg Bool.false_ne_true]
  unfold loopEnd
  rw [if_pos ht, if_neg hc]
  exact repeatLoop_cons hp

/-- The end of a counter loop in its last pass. -/
theorem sequence_counter_leave (hl : s.loops = e :: rest) (hp : s.pcStack = top :: more) (ht : e.term = .lce)
    (he : e.endAddr = s.pc) (hr : s.request = none) (hd : s.dbr = none) (hm : loopMisplaced s e rest = false)
    (hc : e.count = 1#32) :
    Machine.sequence s =
      .ok { s with pc := s.pc + 1#24, straight := true, loops := rest, pcStack := more } := by
  rw [sequence_atEnd hl he hr hd, hm, if_neg Bool.false_ne_true]
  unfold loopEnd
  rw [if_pos ht, if_pos hc]
  exact leaveLoop_cons hl hp

end

/-- The state `k` passes into counter loop `e`, which starts at `start`. -/
def afterPasses (s : State) (e : LoopEntry) (rest : List LoopEntry) (start : ProgAddr) (k : Nat) : State :=
  { s with pc := start, straight := false, loops := { e with count := e.count - BitVec.ofNat 32 k } :: rest }

/-- A pass: control reaches the end address of the loop, and the sequencer chooses what comes next. -/
def passTo (a : ProgAddr) (r : Run State) : Run State := r >>= fun t => Machine.sequence { t with pc := a }

theorem sub_ofNat_succ (c : Word) (k : Nat) : c - BitVec.ofNat 32 k - 1#32 = c - BitVec.ofNat 32 (k + 1) := by
  rw [BitVec.ofNat_add, BitVec.sub_sub]

/-- A counter shows 1 after exactly as many passes as lie before the last one. -/
theorem sub_ofNat_eq_one {c : Word} {k : Nat} (hk : k ≤ (c - 1#32).toNat) :
    c - BitVec.ofNat 32 k = 1#32 ↔ k = (c - 1#32).toNat := by
  bv_omega

section
variable {s : State} {e : LoopEntry} {rest : List LoopEntry} {top : PcEntry} {more : List PcEntry}

theorem passTo_repeat (hl : s.loops = e :: rest) (hp : s.pcStack = top :: more) (ht : e.term = .lce)
    (hr : s.request = none) (hd : s.dbr = none) (hm : loopMisplaced s e rest = false) (hc : e.count ≠ 1#32) :
    passTo e.endAddr (.ok s) = .ok (afterPasses s e rest top.addr 1) :=
  sequence_counter_repeat (s := { s with pc := e.endAddr }) hl hp ht rfl hr hd hm hc

theorem loopMisplaced_afterPasses (hl : s.loops = e :: rest) (a : ProgAddr) (k : Nat) :
    loopMisplaced (afterPasses s e rest a k) { e with count := e.count - BitVec.ofNat 32 k } rest =
      loopMisplaced s e rest := loopMisplaced_count hl ..

theorem passTo_afterPasses (hl : s.loops = e :: rest) (hp : s.pcStack = top :: more) (ht : e.term = .lce)
    (hr : s.request = none) (hd : s.dbr = none) (hm : loopMisplaced s e rest = false) {k : Nat}
    (hk : k < (e.count - 1#32).toNat) :
    passTo e.endAddr (.ok (afterPasses s e rest top.addr k)) = .ok (afterPasses s e rest top.addr (k + 1)) := by
  refine (passTo_repeat (s := afterPasses s e rest top.addr k) (e := { e with count := e.count - BitVec.ofNat 32 k })
    rfl hp ht hr hd (by rw [loopMisplaced_afterPasses hl, hm]) ?_).trans ?_
  · exact fun h => absurd ((sub_ofNat_eq_one (by omega)).1 h) (by omega)
  · have hn : e.count - BitVec.ofNat 32 k - BitVec.ofNat 32 1 = e.count - BitVec.ofNat 32 (k + 1) := sub_ofNat_succ ..
    unfold afterPasses
    rw [← hn]

/-- Before its last pass, every pass takes a counter loop back to its start. -/
theorem passTo_iterate (hl : s.loops = e :: rest) (hp : s.pcStack = top :: more) (ht : e.term = .lce)
    (hr : s.request = none) (hd : s.dbr = none) (hm : loopMisplaced s e rest = false) :
    ∀ k, 1 ≤ k → k ≤ (e.count - 1#32).toNat →
      (passTo e.endAddr)^[k] (.ok s) = .ok (afterPasses s e rest top.addr k) := by
  intro k h1 hk
  induction k, h1 using Nat.le_induction with
  | base => exact passTo_repeat hl hp ht hr hd hm fun h => by simp [h] at hk
  | succ k h1 ih =>
    rw [Function.iterate_succ_apply', ih (by omega)]
    exact passTo_afterPasses hl hp ht hr hd hm (by omega)

/-- The last pass of a counter loop leaves it. -/
theorem passTo_leave {t : State} {f : LoopEntry} (hl : t.loops = f :: rest) (hp : t.pcStack = top :: more)
    (ht : f.term = .lce) (hr : t.request = none) (hd : t.dbr = none) (hm : loopMisplaced t f rest = false)
    (hc : f.count = 1#32) :
    passTo f.endAddr (.ok t) =
      .ok { t with pc := f.endAddr + 1#24, straight := true, loops := rest, pcStack := more } :=
  sequence_counter_leave (s := { t with pc := f.endAddr }) hl hp ht rfl hr hd hm hc

theorem passTo_last (hl : s.loops = e :: rest) (hp : s.pcStack = top :: more) (ht : e.term = .lce)
    (hr : s.request = none) (hd : s.dbr = none) (hm : loopMisplaced s e rest = false) :
    (passTo e.endAddr)^[(e.count - 1#32).toNat + 1] (.ok s) =
      .ok { s with pc := e.endAddr + 1#24, straight := true, loops := rest, pcStack := more } := by
  rw [Function.iterate_succ_apply']
  rcases Nat.eq_zero_or_pos (e.count - 1#32).toNat with h0 | hpos
  · rw [h0]
    exact passTo_leave hl hp ht hr hd hm (by bv_omega)
  · rw [passTo_iterate hl hp ht hr hd hm _ hpos le_rfl]
    exact passTo_leave (t := afterPasses s e rest top.addr (e.count - 1#32).toNat)
      (f := { e with count := e.count - BitVec.ofNat 32 (e.count - 1#32).toNat })
      rfl hp ht hr hd (by rw [loopMisplaced_afterPasses hl, hm]) ((sub_ofNat_eq_one le_rfl).2 rfl)

end

/-- Settles O26: by induction on the passes, the counter going down by one in each. -/
theorem counterLoopCounts : Obligations.CounterLoopCounts := by
  intro s e rest top more hl hp ht hr hd hends hstarts
  have hm : loopMisplaced s e rest = false := by
    rw [Bool.eq_false_iff, Ne, loopMisplaced_eq_true]
    rintro (⟨f, hf, he⟩ | ⟨hne, hall⟩)
    · exact hends f hf he
    · obtain hnil | ⟨b, hb, hle⟩ := hstarts
      · exact hne hnil
      · exact absurd (hall b hb) (by omega)
  exact ⟨passTo_iterate hl hp ht hr hd hm, passTo_last hl hp ht hr hd hm⟩

/-- Settles O27, by the cases of the test at the end of a loop. -/
theorem conditionLoopEnds : Obligations.ConditionLoopEnds := by
  intro s e rest top more hl hp he hr hd starts misplaced ordered ofElement changedMode holds back out
  have hseq := sequence_atEnd hl he hr hd
  have hplaced (h : ¬ misplaced) : Machine.sequence s = loopEnd s e rest := by
    rw [hseq, if_neg (fun hm => h (loopMisplaced_eq_true.1 hm))]
  have hmode : changedMode ↔ condDeps e.term &&& s.mode1Changed ≠ 0#32 := (condDeps_and_ne_zero ..).symm
  refine ⟨fun h => firstBodies_of_start hp h rest, fun d hd hs => mem_firstBodies_of_popped hd hs rest, fun h => ?calls,
    fun hs ht hrest => mem_firstBodies_of_software hp hs ht hrest, fun hne ht => top_mem_firstBodies hp hne ht,
    fun h => ?misplaced, fun h ht => ?forever, fun h hc ha hlce => ?changed,
    fun h hc ha hlce => ⟨fun hv => ?settled, fun hv => ?unsettled⟩⟩
  case calls =>
    have hfirst : starts = _ := firstBodies_of_calls h e rest
    exact ⟨fun hn => by rw [hfirst, hn]; rfl, fun d hn => by rw [hfirst, hn]; rfl⟩
  case misplaced => rw [hseq, if_pos (loopMisplaced_eq_true.2 h)]
  case forever => rw [hplaced h, loopEnd_forever hp ht]; rfl
  case changed => rw [hplaced h, loopEnd_changedMode ha hlce (hmode.1 hc)]
  case settled =>
    rw [hplaced h, loopEnd_settled hl hp ha hlce (not_not.1 (mt hmode.2 hc)) (settled_eq_true.2 hv)]
    rfl
  case unsettled =>
    refine (hplaced h).trans (loopEnd_unsettled ha hlce (not_not.1 (mt hmode.2 hc)) (Bool.eq_false_iff.2 fun hs => ?_))
    obtain ⟨v, hmem, hne⟩ := hv
    exact hne (settled_eq_true.1 hs v hmem)

end Sys2Proof.Machine
end

section
/-!
Delay slots (41_program_flow.md R261, U21): an instruction that the guard lets stand between a delayed branch and its
target leaves the sequencer alone. Its writes leave the tops of the stacks, and its operations are none that the
sequencer
reads. -/

-- One proof at a time: each thread that elaborates beside another reserves a gigabyte of the check's memory.
set_option Elab.async false

namespace Sys2Proof.Machine

/-! ### Registers that are not the top of a stack -/

/-- No register of the list is the top of the PC stack or of a loop stack. -/
def TopFree (d : List UReg) : Prop := ∀ u ∈ d, isStackTop u = false

theorem TopFree.nil : TopFree [] := fun _ h => nomatch h

theorem TopFree.append {d d' : List UReg} (h : TopFree d) (h' : TopFree d') : TopFree (d ++ d') :=
  fun u hu => (List.mem_append.mp hu).elim (h u) (h' u)

theorem TopFree.ite {c : Prop} [Decidable c] {d d' : List UReg} (h : TopFree d) (h' : TopFree d') :
    TopFree (if c then d else d') := by
  split
  · exact h
  · exact h'

theorem TopFree.map_r (rs : List RegNum) : TopFree (rs.map .r) := by
  intro u hu
  obtain ⟨n, -, rfl⟩ := List.mem_map.mp hu
  rfl

theorem TopFree.map_s (rs : List RegNum) : TopFree (rs.map .s) := by
  intro u hu
  obtain ⟨n, -, rfl⟩ := List.mem_map.mp hu
  rfl

theorem TopFree.sys (q : SReg) : TopFree [.sys q] := by
  intro u hu
  rw [List.mem_singleton.mp hu]
  rfl

theorem unitDests_topFree (s : State) (rs : List RegNum) (fl st : Word) : TopFree (unitDests s rs fl st) :=
  (((TopFree.map_r rs).append (.ite .nil (.sys _))).append (.ite .nil (.sys _))).append
    (.ite (((TopFree.map_s rs).append (.ite .nil (.sys _))).append (.ite .nil (.sys _))) .nil)

theorem computeDests_topFree (s : State) (c : Compute) : TopFree (computeDests s c) :=
  unitDests_topFree s _ _ _

theorem indexDests_topFree (k : RegNum) : TopFree (indexDests k) := by
  refine TopFree.append (d := [.i k]) (fun u hu => ?_) (.ite .nil (.sys _))
  rw [List.mem_singleton.mp hu]
  rfl

theorem statusRegs_topFree : TopFree statusRegs := by
  simp [TopFree, statusRegs, isStackTop]

theorem shownBy_topFree {u : UReg} (h : isStackTop u = false) : TopFree (shownBy u) := by
  cases u with
  | pcstk | laddr | curlcntr => cases h
  | sys q => cases q <;> simp [TopFree, shownBy, isStackTop]
  | _ => simp [TopFree, shownBy, isStackTop]

theorem complement_notTop {u : UReg} (h : isStackTop u = false) : isStackTop (complement u) = false := by
  cases u with
  | pcstk | laddr | curlcntr => cases h
  | _ => rfl

/-- A top of a stack has no complement and no neighbour. -/
theorem neighbours_notTop {u lo hi : UReg} (h : neighbours u = some (lo, hi)) :
    isStackTop lo = false ∧ isStackTop hi = false := by
  cases u with
  | sys q => cases q <;> cases h <;> exact ⟨rfl, rfl⟩
  | _ => cases h <;> exact ⟨rfl, rfl⟩

theorem hasComplement_of_top {u : UReg} (h : isStackTop u = true) : hasComplement u = false := by
  cases u with
  | pcstk | laddr | curlcntr => rfl
  | _ => cases h

theorem pairDests_topFree {u : UReg} (h : isStackTop u = false) (s : State) (lw : Bool) (a : Word) :
    TopFree (pairDests s lw a u) := by
  unfold pairDests
  refine .ite ?_ (shownBy_topFree h)
  cases hn : neighbours u with
  | none => exact .nil
  | some p => exact (shownBy_topFree (neighbours_notTop hn).1).append (shownBy_topFree (neighbours_notTop hn).2)

theorem moveDests_topFree {u : UReg} {store : Bool} (h : store = true ∨ isStackTop u = false) (s : State) (lw bc : Bool)
    (a : Word) : TopFree (moveDests s lw bc a u store) := by
  unfold moveDests
  cases store
  · have hu : isStackTop u = false := h.resolve_left Bool.false_ne_true
    rw [if_neg Bool.false_ne_true]
    exact (pairDests_topFree hu s _ _).append (.ite (pairDests_topFree (complement_notTop hu) s _ _) .nil)
  · rw [if_pos rfl]
    exact .nil

theorem dregDests_topFree (s : State) (k : RegNum) (mv : DregMove) : TopFree (dregDests s k mv) :=
  moveDests_topFree (.inr rfl) s _ _ _

theorem withComplement_topFree {u : UReg} (h : isStackTop u = false) (s : State) : TopFree (withComplement s u) :=
  (shownBy_topFree h).append (.ite (shownBy_topFree (complement_notTop h)) .nil)

theorem changesSequencer_pushSts (pcstk fl : Bool) : changesSequencer (.pushSts pcstk fl) = pcstk := rfl

theorem changesSequencer_popSts (pcstk fl : Bool) : changesSequencer (.popSts pcstk fl) = pcstk := rfl

/-- Which instructions can write the top of a stack by their writes or their operations: those that change the
sequencer,
the branches, and a move into it. -/
theorem destinations_topFree {i : Instr} (hc : changesSequencer i = false) (hb : isBranch i = false)
    (hw : (writtenUReg i).any isStackTop = false) (s : State) : TopFree (destinations i s) := by
  by_cases ha : standsAlone i = true
  · rw [destinations_alone ha]
    exact computeDests_topFree s _
  cases i
  case dualMove =>
    exact ((((computeDests_topFree s _).append (dregDests_topFree s _ _)).append (dregDests_topFree s _ _)).append
      (indexDests_topFree _)).append (indexDests_topFree _)
  case ifCompute => exact computeDests_topFree s _
  case uregMove store _ u =>
    refine ((computeDests_topFree s _).append (moveDests_topFree ?_ s _ _ _)).append (.ite (indexDests_topFree _) .nil)
    cases store
    · exact .inr hw
    · exact .inl rfl
  case dregMoveImm =>
    exact ((computeDests_topFree s _).append (moveDests_topFree (.inr rfl) s _ _ _)).append
      (.ite (indexDests_topFree _) .nil)
  case uregToUreg => exact (computeDests_topFree s _).append (withComplement_topFree hw s)
  case swap => exact (computeDests_topFree s _).append (by simp [TopFree, isStackTop])
  case shiftImmMove =>
    exact ((unitDests_topFree s _ _ _).append (dregDests_topFree s _ _)).append (indexDests_topFree _)
  case shiftImm => exact unitDests_topFree s _ _ _
  case modifyReg => exact (computeDests_topFree s _).append (indexDests_topFree _)
  case loadDirect | loadIndexed => exact moveDests_topFree (.inr hw) s _ _ _
  case storeImm | modifyImm | bitrev => exact indexDests_topFree _
  case loadImm => exact withComplement_topFree hw s
  case bitSet | bitClr | bitTgl | bitTst | bitXor => exact withComplement_topFree rfl s
  case rframe =>
    change TopFree [.i 7, .i 6]
    simp [TopFree, isStackTop]
  case pushSts pcstk fl =>
    rw [changesSequencer_pushSts] at hc
    subst hc
    exact statusRegs_topFree.append .nil
  case popSts pcstk fl =>
    rw [changesSequencer_popSts] at hc
    subst hc
    exact statusRegs_topFree.append .nil
  case jumpAbs | jumpRel | callAbs | callRel | jumpInd | jumpRel6 | callInd | callRel6 | jumpIndElse | jumpRelElse
    | rts | rti | cjumpAbs | cjumpRel => cases hb
  case doCountImm | doCountReg | doUntil | idle | pushPcstk | pushLoop | popLoop | popPcstk => cases hc
  case storeDirect | storeIndexed => exact .nil
  case flushCache | stackNone | nop => exact computeDests_topFree s .nop
  all_goals exact absurd rfl ha

/-! ### Where a condition holds -/

theorem condTaken_eq (s : State) (c : Cond) : condTaken s c = takes s (elementsOf s c) := by
  unfold condTaken elementsOf
  cases evalCond s c <;> rfl

theorem condTaken_of_ok {s : State} {c : Cond} {p : CondPair} (h : evalCond s c = .ok p) :
    condTaken s c = (p.cx && (!s.simd || p.cy)) := by
  unfold condTaken
  rw [h]
  rfl

theorem condSome_of_ok {s : State} {c : Cond} {p : CondPair} (h : evalCond s c = .ok p) :
    condSome s c = (p.cx || p.cy) := by
  unfold condSome
  rw [h]

theorem condTaken_always (s : State) : condTaken s .always = true := by
  rw [condTaken_of_ok (evalCond_always s)]
  unfold allElements
  cases s.simd <;> rfl

/-! ### The writes of an instruction in a slot -/

/-- The writes show in no top of a stack. -/
def WritesTopFree (ws : List Write) : Prop := ∀ w ∈ ws, TopFree w.shows

theorem WritesFit.topFree {s : State} {ws : List Write} {c : List Word} {d : List UReg} {b : List MrBank}
    (h : WritesFit s ws c d b) (hd : TopFree d) : WritesTopFree ws := fun w hw u hu => hd u (h.shows w hw u hu)

theorem WritesTopFree.nil : WritesTopFree [] := fun _ h => nomatch h

theorem WritesTopFree.append {ws ws' : List Write} (h : WritesTopFree ws) (h' : WritesTopFree ws') :
    WritesTopFree (ws ++ ws') := fun w hw => (List.mem_append.mp hw).elim (h w) (h' w)

theorem computeWrites_topFree (s : State) (c : Compute) (ex : Bool) {ey : Bool} (hy : ey = true → s.simd = true) :
    WritesTopFree (computeWrites s c ex ey) := (computeWrites_fit s c ex hy).topFree (computeDests_topFree s c)

theorem elseWrites_topFree (s : State) (p : CondPair) (els : Bool) (c : Compute) :
    WritesTopFree (elseWrites s p els c) := (elseWrites_fit s p els c).topFree (computeDests_topFree s c)

theorem postmodWrites_topFree (s : State) (go : Bool) (k : RegNum) (m : Word) :
    WritesTopFree (postmodWrites s go k m) :=
  (postmodWrites_fit s go k m).topFree (.ite (indexDests_topFree k) .nil)

/-- A load of a register without a complement, which is not made on every active element, writes nothing. -/
theorem xfer_untaken {s : State} {lw : Bool} {a : Word} {u : UReg} {p : CondPair} {k : Option RegNum} {ws : List Write}
    (hu : hasComplement u = false) (hp : (p.cx && (!s.simd || p.cy)) = false)
    (h : xfer s lw a u false p.cx p.cy k = .ok ws) : ws = [] := by
  have honce : madeOnce s lw a u = true := by simp [madeOnce, hu]
  rw [xfer_eq_ok, if_pos honce] at h
  obtain ⟨hsame, hx⟩ := h
  cases hcx : p.cx
  · rw [hcx, if_neg Bool.false_ne_true] at hx
    exact hx
  · rw [hcx] at hp hsame
    cases hs : s.simd <;> cases hcy : p.cy <;> simp [hs, hcy] at hp hsame

/-- Unless it changes the sequencer or moves into the top of a stack where it runs, an instruction's writes leave the
tops
of the stacks. -/
theorem writesOf_topFree {i : Instr} {s : State} {ws : List Write} (h : writesOf i s = .ok ws)
    (hc : changesSequencer i = false)
    (hw : (writtenUReg i).any isStackTop = true → condTaken s (condOf i) = false) : WritesTopFree ws := by
  have hfit := writesOf_fit h
  by_cases hb : isBranch i = true
  · cases i
    case jumpAbs | jumpRel | callAbs | callRel =>
      obtain ⟨p, -, h⟩ := (Run.bind_eq_ok _ _ _).mp h
      cases h
      exact .nil
    case jumpInd | jumpRel6 | callInd | callRel6 | rts | rti =>
      obtain ⟨p, -, h⟩ := (Run.bind_eq_ok _ _ _).mp h
      cases h
      exact elseWrites_topFree s p _ _
    case jumpIndElse | jumpRelElse =>
      exact hfit.topFree (((computeDests_topFree s _).append (dregDests_topFree s _ _)).append (indexDests_topFree _))
    case cjumpAbs | cjumpRel =>
      refine hfit.topFree (TopFree.append ?_ (.ite ?_ .nil)) <;> simp [TopFree, isStackTop]
    all_goals cases hb
  · by_cases ht : (writtenUReg i).any isStackTop = true
    · have hun := hw ht
      cases i
      case uregMove cond c g post k m store long u =>
        cases store
        · change (if sameDag g u = true then _ else _) = _ at h
          split at h
          · exact absurd h (refuse_ne_ok _ _)
          · obtain ⟨p, hp, h⟩ := (Run.bind_eq_ok _ _ _).mp h
            obtain ⟨w, hx, h⟩ := (Run.bind_eq_ok _ _ _).mp h
            cases h
            rw [xfer_untaken (hasComplement_of_top ht) ((condTaken_of_ok hp).symm.trans hun) hx]
            exact ((computeWrites_topFree s c _ (simd_of_evalCond hp)).append .nil).append
              (postmodWrites_topFree s _ _ _)
        · cases ht
      case uregToUreg cond c dst src =>
        obtain ⟨p, hp, h⟩ := (Run.bind_eq_ok _ _ _).mp h
        obtain ⟨w, hm, h⟩ := (Run.bind_eq_ok _ _ _).mp h
        cases h
        have hnone : w = [] := by
          unfold uregTransfer takes at hm
          rw [hasComplement_of_top ht, if_neg Bool.false_ne_true, (condTaken_of_ok hp).symm.trans hun] at hm
          cases hm
          rfl
        rw [hnone]
        exact (computeWrites_topFree s c _ (simd_of_evalCond hp)).append .nil
      case loadDirect | loadIndexed | loadImm => exact absurd ((condTaken_always s).symm.trans hun) (by simp)
      all_goals cases ht
    · exact hfit.topFree (destinations_topFree hc (Bool.eq_false_iff.mpr hb) (Bool.eq_false_iff.mpr ht) s)

/-! ### What the sequencer sees -/

/-- The stacks of PC and of the loops, the branch request and the idle state are the same. -/
def SameSequencer (s t : State) : Prop :=
  t.request = s.request ∧ t.pcStack = s.pcStack ∧ t.loops = s.loops ∧ t.idle = s.idle

theorem SameSequencer.refl (s : State) : SameSequencer s s := ⟨rfl, rfl, rfl, rfl⟩

theorem SameSequencer.trans {s t u : State} (h : SameSequencer s t) (h' : SameSequencer t u) : SameSequencer s u := by
  unfold SameSequencer at *
  simp_all

theorem writeUReg_sameSequencer {u : UReg} (h : TopFree (shownBy u)) (s : State) (v : BusWord) :
    SameSequencer s (s.writeUReg u v) := by
  cases u with
  | pcstk | laddr | curlcntr => exact absurd (h _ List.mem_cons_self) (by simp [isStackTop])
  | sys q => cases q <;> exact .refl _
  | _ => exact .refl _

theorem apply_sameSequencer {w : Write} (h : TopFree w.shows) (s : State) : SameSequencer s (w.apply s) := by
  cases w with
  | reg u v => exact writeUReg_sameSequencer h s v
  | unit e r => cases e <;> exact .refl _
  | _ => exact .refl _

theorem foldl_sameSequencer {ws : List Write} (h : WritesTopFree ws) (s : State) :
    SameSequencer s (ws.foldl Write.apply s) := by
  induction ws generalizing s with
  | nil => exact .refl _
  | cons w ws ih =>
    exact (apply_sameSequencer (h w List.mem_cons_self) s).trans (ih (fun v hv => h v (List.mem_cons_of_mem _ hv)) _)

/-- The operations that the sequencer does not see. -/
theorem does_sameSequencer {o : TailOp} {s t : State} (ho : o ∈ [TailOp.pushSts, .popSts, .flush]) (h : o.Does s t) :
    SameSequencer s t := by
  cases o
  case pushSts => obtain ⟨-, rfl⟩ := h; exact .refl _
  case popSts => obtain ⟨e, rest, -, rfl⟩ := h; exact .refl _
  case flush => obtain rfl := h; exact .refl _
  all_goals simp at ho

theorem Chain.sameSequencer {ops : List TailOp} {s t : State} (h : Chain ops s t)
    (ho : ∀ o ∈ ops, o ∈ [TailOp.pushSts, .popSts, .flush]) : SameSequencer s t :=
  h.keeps (P := SameSequencer s) (fun o hm _ _ hd hp => hp.trans (does_sameSequencer (ho o hm) hd)) (.refl s)

theorem flushOps_unseen (fl : Bool) : ∀ o ∈ flushOps fl, o ∈ [TailOp.pushSts, .popSts, .flush] := by
  cases fl <;> simp [flushOps]

/-- Unless it changes the sequencer or branches, an instruction's operations are none the sequencer sees. -/
theorem tailOps_unseen {i : Instr} (hc : changesSequencer i = false) (hb : isBranch i = false) :
    ∀ o ∈ tailOps i, o ∈ [TailOp.pushSts, .popSts, .flush] := by
  cases i
  case pushSts pcstk fl =>
    rw [changesSequencer_pushSts] at hc
    subst hc
    exact List.forall_mem_cons.mpr ⟨List.mem_cons_self, flushOps_unseen fl⟩
  case popSts pcstk fl =>
    rw [changesSequencer_popSts] at hc
    subst hc
    exact List.forall_mem_cons.mpr ⟨List.mem_cons_of_mem _ List.mem_cons_self, flushOps_unseen fl⟩
  case flushCache => exact flushOps_unseen true
  case doCountImm | doCountReg | doUntil | idle | pushPcstk | pushLoop | popLoop | popPcstk => cases hc
  case jumpAbs | jumpRel | callAbs | callRel | jumpInd | jumpRel6 | callInd | callRel6 | jumpIndElse | jumpRelElse
    | rts | rti | cjumpAbs | cjumpRel => cases hb
  all_goals exact fun o ho => nomatch ho

/-- A branch that is not taken does nothing. -/
theorem tailOf_untaken {i : Instr} {s t u : State} (h : tailOf i s t = .ok u) (hb : isBranch i = true)
    (hun : condTaken s (condOf i) = false) : u = t := by
  cases i
  case jumpAbs | jumpRel | callAbs | callRel | jumpInd | jumpRel6 | callInd | callRel6 | rts | rti =>
    rw [condTaken_eq] at hun
    change (if takes s (elementsOf s _) = true then _ else _) = _ at h
    rw [if_neg (by exact Bool.eq_false_iff.mp hun)] at h
    exact (Except.ok.inj h).symm
  case jumpIndElse | jumpRelElse =>
    rw [condTaken_eq] at hun
    change pure (if takes s (elementsOf s _) = true then _ else _) = _ at h
    rw [if_neg (by exact Bool.eq_false_iff.mp hun)] at h
    exact (Except.ok.inj h).symm
  case cjumpAbs | cjumpRel => exact absurd ((condTaken_always s).symm.trans hun) (by simp)
  all_goals cases hb

/-- Unless it changes the sequencer or branches where it runs, an instruction's operations leave what the sequencer
sees. -/
theorem tailOf_sameSequencer {i : Instr} {s t u : State} (h : tailOf i s t = .ok u) (hc : changesSequencer i = false)
    (hb : isBranch i = true → condTaken s (condOf i) = false) : SameSequencer t u := by
  by_cases hbr : isBranch i = true
  · rw [tailOf_untaken h hbr (hb hbr)]
    exact .refl t
  · exact (tailOf_chain h).sameSequencer (tailOps_unseen hc (Bool.eq_false_iff.mpr hbr))

/-- What the guard says of an instruction between a delayed branch and its target. -/
theorem slotForbidden_eq_false {s : State} {i : Instr} (hd : s.dbr ≠ none) (h : slotForbidden s i = false) :
    changesSequencer i = false ∧ (isBranch i = true → condTaken s (condOf i) = false) ∧
      ((writtenUReg i).any isStackTop = true → condTaken s (condOf i) = false) ∧
      ∀ e ∈ s.loops, e.endAddr ≠ s.pc := by
  unfold slotForbidden at h
  rw [Option.isSome_iff_ne_none.mpr hd, Bool.true_and, Bool.or_eq_false_iff, Bool.or_eq_false_iff,
    Bool.and_eq_false_iff, Bool.or_eq_false_iff, List.any_eq_false] at h
  obtain ⟨⟨hc, hbw⟩, hl⟩ := h
  refine ⟨hc, fun hb => ?_, fun hw => ?_, fun e he => by simpa using hl e he⟩
  · exact hbw.resolve_left fun ⟨hf, _⟩ => Bool.false_ne_true (hf.symm.trans hb)
  · exact hbw.resolve_left fun ⟨_, hf⟩ => Bool.false_ne_true (hf.symm.trans hw)

/-- In a slot an instruction that the guard allows leaves the sequencer as it is. -/
theorem exec_in_slot {s t : State} {i : Instr} (hd : s.dbr ≠ none) (h : slotForbidden s i = false)
    (he : exec i s = .next t) : SameSequencer s t := by
  obtain ⟨hc, hb, hw, -⟩ := slotForbidden_eq_false hd h
  rw [exec_eq, Run.outcome_eq_next] at he
  obtain ⟨ws, hws, he⟩ := (Run.bind_eq_ok _ _ _).mp he
  obtain ⟨u, hu, he⟩ := (Run.bind_eq_ok _ _ _).mp he
  obtain ⟨-, rfl⟩ := (commit_eq_ok s u ws).mp hu
  exact (foldl_sameSequencer (writesOf_topFree hws hc hw) s).trans (tailOf_sameSequencer he hc hb)

end Sys2Proof.Machine
end

section
/-!
What forbids an instruction where it stands (70_reset_and_hazards.md R612, 41_program_flow.md R261, R282): the three
rules
of the guard, and the MODE1 bits that an instruction depends on. -/

-- One proof at a time: each thread that elaborates beside another reserves a gigabyte of the check's memory.
set_option Elab.async false

namespace Sys2Proof.Machine

/-! ### The three rules -/

theorem slotForbidden_of_none {s : State} (h : s.dbr = none) (i : Instr) : slotForbidden s i = false := by
  unfold slotForbidden
  rw [h]
  rfl

theorem guard_eq_none {s : State} {i : Instr} :
    guard s i = none ↔
      slotForbidden s i = false ∧ endForbidden s i = false ∧ modeDeps s i &&& s.mode1Changed = 0#32 := by
  unfold guard
  cases slotForbidden s i <;> cases endForbidden s i <;> simp

/-- Outside of slots the end of a counter loop comes before a change of MODE1. -/
theorem guard_of_endForbidden {s : State} {i : Instr} (hd : s.dbr = none) (h : endForbidden s i = true) :
    guard s i = some .loopEnd := by
  unfold guard
  rw [slotForbidden_of_none hd, if_neg Bool.false_ne_true, if_pos h]

theorem guard_of_modeDeps {s : State} {i : Instr} (hd : s.dbr = none) (hn : nearCounterEnd s = false) {k : Nat}
    (hk : (modeDeps s i).getLsbD k = true) (hc : s.mode1Changed.getLsbD k = true) :
    guard s i = some .modeJustChanged := by
  unfold guard endForbidden
  rw [slotForbidden_of_none hd, hn, if_neg Bool.false_ne_true, if_neg (by simp), if_pos (and_ne_zero_iff.mpr ⟨k, hk,
      hc⟩)]

theorem nearCounterEnd_eq_true {s : State} :
    nearCounterEnd s = true ↔
      ∃ e ∈ s.loops, e.term = .lce ∧ (s.pc = e.endAddr ∨ s.pc + 1#24 = e.endAddr ∨ s.pc + 2#24 = e.endAddr) := by
  simp only [nearCounterEnd, nearEnd, List.any_eq_true, Bool.and_eq_true, decide_eq_true_eq]

/-! ### Looking at the loop counter -/

section
variable {s : State} {i : Instr} {u : UReg}

theorem looksAtLoop_of_cond (h : condOf i = .lce) : looksAtLoop s i = true := by
  simp [looksAtLoop, h]

theorem looksAtLoop_of_reads (h : readsLoop s i = true) : looksAtLoop s i = true := by
  simp [looksAtLoop, h]

theorem looksAtLoop_of_writes (hw : writtenUReg i = some u) (hu : showsLoop u = true)
    (ht : condTaken s (condOf i) = true) : looksAtLoop s i = true := by
  simp [looksAtLoop, hw, hu, ht]

theorem condSome_of_taken {c : Cond} (h : condTaken s c = true) : condSome s c = true := by
  cases he : evalCond s c with
  | error e =>
    unfold condTaken at h
    rw [he] at h
    cases h
  | ok p =>
    rw [condTaken_of_ok he, Bool.and_eq_true] at h
    rw [condSome_of_ok he, h.1, Bool.true_or]

theorem condSome_always : condSome s .always = true := condSome_of_taken (condTaken_always s)

end

/-! ### The bits of MODE1 an instruction depends on -/

/-- The bits of MODE1 that any instruction depends on. -/
def modeBits : List Nat := [13, 15, 16, 21, 22, 23, 24]

/-- The word has only bits of `modeBits`. -/
def InModeBits (w : Word) : Prop := ∀ k, w.getLsbD k = true → k ∈ modeBits

theorem InModeBits.zero : InModeBits 0#32 := fun k h => by simp at h

theorem InModeBits.or {a b : Word} (ha : InModeBits a) (hb : InModeBits b) : InModeBits (a ||| b) := by
  intro k h
  rw [BitVec.getLsbD_or, Bool.or_eq_true] at h
  exact h.elim (ha k) (hb k)

theorem InModeBits.maskIf {go : Bool} {w : Word} (hw : InModeBits w) : InModeBits (maskIf go w) := by
  intro k h
  rw [getLsbD_maskIf, Bool.and_eq_true] at h
  exact hw k h.2

theorem InModeBits.bit {n : Nat} (h : n < 32) (hn : n ∈ modeBits) : InModeBits (1#32 <<< n) := by
  intro k hk
  rw [getLsbD_one_shiftLeft h, decide_eq_true_eq] at hk
  rwa [hk]

theorem InModeBits.peyen : InModeBits peyenBit := .bit (by omega) (by decide)

theorem InModeBits.alusat : InModeBits alusatBit := .bit (by omega) (by decide)

theorem InModeBits.trunc : InModeBits truncBit := .bit (by omega) (by decide)

theorem InModeBits.round : InModeBits roundBits := .or .trunc (.bit (by omega) (by decide))

theorem fixOp2Deps_in (op : FixOp2) : InModeBits (fixOp2Deps op) := by
  cases op
  case add | sub | addCi | subCi => exact .alusat
  case avg => exact .trunc
  all_goals exact .zero

theorem fixOp1Deps_in (op : FixOp1) : InModeBits (fixOp1Deps op) := by
  cases op
  case pass | not => exact .zero
  all_goals exact .alusat

theorem fltOp2Deps_in (op : FltOp2) : InModeBits (fltOp2Deps op) := by
  cases op
  case fixBy => exact .or .trunc .alusat
  case truncBy => exact .alusat
  case floatBy => exact .trunc
  case copysign | min | max | clip => exact .zero
  all_goals exact .round

theorem fltOp1Deps_in (op : FltOp1) : InModeBits (fltOp1Deps op) := by
  cases op
  case rnd | float => exact .trunc
  case fix => exact .or .trunc .alusat
  case logb | trunc => exact .alusat
  all_goals exact .zero

theorem unitDeps_in (c : Compute) : InModeBits (unitDeps c) := by
  cases c
  case fix2 op _ _ _ => exact fixOp2Deps_in op
  case fix1 op _ _ => exact fixOp1Deps_in op
  case flt2 op _ _ _ => exact fltOp2Deps_in op
  case flt1 op _ _ => exact fltOp1Deps_in op
  case dualFix | mulDualFix => exact .alusat
  case mulFlt | dualFlt | mulAbsFlt | mulDualFlt => exact .round
  case mulAluFix | macAluFix => exact fixOp2Deps_in _
  case mulAluFlt => exact .or .round (fltOp2Deps_in _)
  all_goals exact .zero

theorem computeDeps_in (c : Compute) : InModeBits (computeDeps c) := .maskIf (.or .peyen (unitDeps_in c))

theorem condDeps_in (c : Cond) : InModeBits (condDeps c) := .or (.maskIf .peyen) (.maskIf .alusat)

theorem postDeps_in (s : State) (k : RegNum) : InModeBits (postDeps s k) := .maskIf (.bit (by omega) (by decide))

theorem loadDeps_in (k : RegNum) : InModeBits (loadDeps k) :=
  .or (.maskIf (.bit (by omega) (by decide))) (.maskIf (.bit (by omega) (by decide)))

theorem dregMoveDeps_in (s : State) (k : RegNum) (store : Bool) : InModeBits (dregMoveDeps s k store) :=
  .or (.or .peyen (postDeps_in s k)) (.maskIf (loadDeps_in k))

theorem uregMoveDeps_in (u : UReg) (k : RegNum) (store : Bool) : InModeBits (uregMoveDeps u k store) :=
  .maskIf (.or .peyen (.maskIf (loadDeps_in k)))

theorem moveDeps_in (s : State) (i : Instr) : InModeBits (moveDeps s i) := by
  cases i
  case dualMove => exact .or (dregMoveDeps_in s _ _) (dregMoveDeps_in s _ _)
  case uregMove => exact .or (uregMoveDeps_in _ _ _) (.maskIf (postDeps_in s _))
  case dregMoveImm => exact .or (.or .peyen (.maskIf (loadDeps_in _))) (.maskIf (postDeps_in s _))
  case shiftImmMove | jumpIndElse | jumpRelElse => exact dregMoveDeps_in s _ _
  case uregToUreg | storeDirect | loadDirect | loadImm | bitSet | bitClr | bitTgl => exact .maskIf .peyen
  case shiftImm | bitTst | bitXor | cjumpAbs | cjumpRel | rframe => exact .peyen
  case storeIndexed | loadIndexed => exact uregMoveDeps_in _ _ _
  case storeImm => exact .or .peyen (postDeps_in s _)
  all_goals exact .zero

theorem modeDeps_in (s : State) (i : Instr) : InModeBits (modeDeps s i) :=
  .or (.or (.maskIf (condDeps_in _)) (computeDeps_in _)) (moveDeps_in s i)

/-! ### Which bits each part reads -/

section
variable {s : State} {i : Instr} {k : Nat}

theorem modeDeps_of_cond (hi : doesNothing i = false) (h : (condDeps (condOf i)).getLsbD k = true) :
    (modeDeps s i).getLsbD k = true := by
  simp [modeDeps, getLsbD_maskIf, hi, h]

theorem modeDeps_of_compute (hc : i.compute ≠ .nop) (h : (peyenBit ||| unitDeps i.compute).getLsbD k = true) :
    (modeDeps s i).getLsbD k = true := by
  have hd : (computeDeps i.compute).getLsbD k = true := by
    rw [computeDeps, getLsbD_maskIf, h, decide_eq_true hc]
    rfl
  rw [modeDeps, BitVec.getLsbD_or, BitVec.getLsbD_or, hd, Bool.or_true, Bool.true_or]

theorem modeDeps_of_move (h : (moveDeps s i).getLsbD k = true) : (modeDeps s i).getLsbD k = true := by
  rw [modeDeps, BitVec.getLsbD_or, h, Bool.or_true]

end

theorem peyenBit_bit : peyenBit.getLsbD 21 = true := rfl

theorem getLsbD_or_left {a : Word} {k : Nat} (h : a.getLsbD k = true) (b : Word) : (a ||| b).getLsbD k = true := by
  rw [BitVec.getLsbD_or, h, Bool.true_or]

theorem getLsbD_or_right {b : Word} {k : Nat} (h : b.getLsbD k = true) (a : Word) : (a ||| b).getLsbD k = true := by
  rw [BitVec.getLsbD_or, h, Bool.or_true]

theorem getLsbD_maskIf_of {go : Bool} {w : Word} {k : Nat} (hg : go = true) (h : w.getLsbD k = true) :
    (maskIf go w).getLsbD k = true := by
  rw [getLsbD_maskIf, hg, h]
  rfl

theorem postDeps_bit {s : State} {k : RegNum} (h : s.l[k] ≠ 0#32) : (postDeps s k).getLsbD 24 = true :=
  getLsbD_maskIf_of (decide_eq_true h) rfl

/-- A load by I1 reads BDCST1, one by I9 BDCST9. -/
theorem loadDeps_bit (g : Dag) : (loadDeps (g.reg 1)).getLsbD (if g = .dm then 23 else 22) = true := by
  cases g <;> decide

theorem dregMoveDeps_peyen (s : State) (k : RegNum) (store : Bool) : (dregMoveDeps s k store).getLsbD 21 = true :=
  getLsbD_or_left (getLsbD_or_left peyenBit_bit _) _

theorem dregMoveDeps_post {s : State} {k : RegNum} (h : s.l[k] ≠ 0#32) (store : Bool) :
    (dregMoveDeps s k store).getLsbD 24 = true :=
  getLsbD_or_left (getLsbD_or_right (postDeps_bit h) _) _

theorem dregMoveDeps_load (s : State) (g : Dag) :
    (dregMoveDeps s (g.reg 1) false).getLsbD (if g = .dm then 23 else 22) = true :=
  getLsbD_or_right (getLsbD_maskIf_of rfl (loadDeps_bit g)) _

theorem uregMoveDeps_peyen {u : UReg} (h : hasComplement u = true) (k : RegNum) (store : Bool) :
    (uregMoveDeps u k store).getLsbD 21 = true :=
  getLsbD_maskIf_of h (getLsbD_or_left peyenBit_bit _)

theorem uregMoveDeps_load {u : UReg} (h : hasComplement u = true) (g : Dag) :
    (uregMoveDeps u (g.reg 1) false).getLsbD (if g = .dm then 23 else 22) = true :=
  getLsbD_maskIf_of h (getLsbD_or_right (getLsbD_maskIf_of rfl (loadDeps_bit g)) _)

theorem condDeps_ordered {c : Cond} (h : c ∈ orderedConds) : (condDeps c).getLsbD 13 = true :=
  getLsbD_or_right (getLsbD_maskIf_of ((readsAlusat_iff_mem c).mpr h) rfl) _

theorem condDeps_element {c : Cond} (h : c ∈ elementConds) : (condDeps c).getLsbD 21 = true :=
  getLsbD_or_left (getLsbD_maskIf_of ((perElement_iff_mem c).mpr h) rfl) _

/-! ### What the guard stops -/

/-- A list of operations that all read a bit of MODE1. -/
def AllRead (k : Nat) (l : List Compute) : Prop := ∀ c ∈ l, c ≠ .nop ∧ (unitDeps c).getLsbD k = true

section
variable {s : State} {i : Instr} {k : Nat}

/-- Right after a change of a bit that they read, the operations are refused. -/
theorem AllRead.stops {l : List Compute} (h : AllRead k l) (hd : s.dbr = none) (hn : nearCounterEnd s = false)
    (hc : s.mode1Changed.getLsbD k = true) : ∀ c ∈ l, i.compute = c → guard s i = some .modeJustChanged := by
  rintro c hm rfl
  obtain ⟨hne, hk⟩ := h _ hm
  exact guard_of_modeDeps hd hn (modeDeps_of_compute hne (getLsbD_or_right hk _)) hc

theorem guard_of_move (hd : s.dbr = none) (hn : nearCounterEnd s = false) (hc : s.mode1Changed.getLsbD k = true)
    (h : (moveDeps s i).getLsbD k = true) : guard s i = some .modeJustChanged :=
  guard_of_modeDeps hd hn (modeDeps_of_move h) hc

theorem guard_of_cond (hd : s.dbr = none) (hn : nearCounterEnd s = false) (hc : s.mode1Changed.getLsbD k = true)
    (hi : doesNothing i = false) (h : (condDeps (condOf i)).getLsbD k = true) : guard s i = some .modeJustChanged :=
  guard_of_modeDeps hd hn (modeDeps_of_cond hi h) hc

theorem doesNothing_eq_false (h : ∀ cond, i ≠ .ifCompute cond .nop) : doesNothing i = false := by
  cases i
  case ifCompute cond c => exact decide_eq_false fun hc => h cond (by rw [hc])
  all_goals rfl

/-- An instruction that depends on no changed bit, away from slots and loop ends, is let pass. -/
theorem guard_of_unchanged (hd : s.dbr = none) (hn : nearCounterEnd s = false)
    (hc : ∀ k ∈ modeBits, ¬ s.mode1Changed.getLsbD k = true) : guard s i = none := by
  refine guard_eq_none.mpr ⟨slotForbidden_of_none hd i, by rw [endForbidden, hn, Bool.false_and], ?_⟩
  by_contra h
  obtain ⟨k, hk, hs⟩ := and_ne_zero_iff.mp h
  exact hc k (modeDeps_in s i k hk) hs

end

theorem alusat_computes (rn rx ry rm rs : RegNum) (mi : MfMulIn) (ai : MfAluIn) (mop : MfMulOp) (sub : Bool) :
    AllRead 13 [.fix2 .add rn rx ry, .fix2 .sub rn rx ry, .fix2 .addCi rn rx ry, .fix2 .subCi rn rx ry,
      .fix1 .incCi rn rx, .fix1 .decCi rn rx, .fix1 .inc rn rx, .fix1 .dec rn rx, .fix1 .neg rn rx, .fix1 .abs rn rx,
      .dualFix rn rs rx ry, .flt1 .fix rn rx, .flt2 .fixBy rn rx ry, .flt1 .trunc rn rx, .flt2 .truncBy rn rx ry,
      .flt1 .logb rn rx, .mulAluFix mop .add rm rn mi ai, .mulAluFix mop .sub rm rn mi ai,
      .macAluFix sub .add rn mi ai, .macAluFix sub .sub rn mi ai, .mulAluFlt .fix rm rn mi ai,
      .mulDualFix rs rm rn mi ai] := by
  simp [AllRead, unitDeps, fixOp2Deps, fixOp1Deps, fltOp2Deps, fltOp1Deps, mfFix, mfFlt, alusatBit, truncBit, roundBits,
    rnd32Bit]

theorem trunc_computes (rn rx ry rm : RegNum) (mi : MfMulIn) (ai : MfAluIn) (mop : MfMulOp) (sub : Bool) :
    AllRead 15 [.fix2 .avg rn rx ry, .flt1 .rnd rn rx, .flt1 .float rn rx, .flt2 .floatBy rn rx ry, .flt1 .fix rn rx,
      .flt2 .fixBy rn rx ry, .mulAluFix mop .avg rm rn mi ai, .macAluFix sub .avg rn mi ai] := by
  simp [AllRead, unitDeps, fixOp2Deps, fltOp2Deps, fltOp1Deps, mfFix, alusatBit, truncBit]

theorem round_computes (rn rx ry rm rs : RegNum) (mi : MfMulIn) (ai : MfAluIn) {k : Nat} (hk : k = 15 ∨ k = 16) :
    AllRead k [.flt2 .add rn rx ry, .flt2 .sub rn rx ry, .flt2 .absAdd rn rx ry, .flt2 .absSub rn rx ry,
      .flt2 .avg rn rx ry, .flt2 .scalb rn rx ry, .mulFlt rn rx ry, .dualFlt rn rs rx ry, .mulAbsFlt rm rn mi ai.xa,
      .mulDualFlt rs rm rn mi ai] := by
  rcases hk with rfl | rfl <;> simp [AllRead, unitDeps, fltOp2Deps, truncBit, roundBits, rnd32Bit]

theorem mulAluFlt_round (op : MfFltOp) (rm rn : RegNum) (mi : MfMulIn) (ai : MfAluIn) {k : Nat} (hk : k = 15 ∨ k = 16) :
    AllRead k [.mulAluFlt op rm rn mi ai] := by
  rintro c hc
  rw [List.mem_singleton.mp hc]
  refine ⟨nofun, getLsbD_or_left ?_ _⟩
  rcases hk with rfl | rfl <;> rfl

section
variable {s : State} {i : Instr} {u : UReg} (hd : s.dbr = none) (hn : nearCounterEnd s = true)
include hd hn

/-- In the last three places of a counter loop a look at the loop is refused. -/
theorem guard_of_looks (h : looksAtLoop s i = true) : guard s i = some .loopEnd :=
  guard_of_endForbidden hd (by rw [endForbidden, hn, h]; rfl)

theorem guard_of_loopWrite (hw : writtenUReg i = some u) (hu : showsLoop u = true)
    (ht : condTaken s (condOf i) = true) : guard s i = some .loopEnd :=
  guard_of_looks hd hn (looksAtLoop_of_writes hw hu ht)

theorem guard_of_loopRead (h : readsLoop s i = true) : guard s i = some .loopEnd :=
  guard_of_looks hd hn (looksAtLoop_of_reads h)

end

/-- Any instruction but a transfer between registers reads its register where its condition holds on some element. -/
theorem readsLoop_of_read {s : State} {i : Instr} {u : UReg}
    (hi : readsLoop s i = ((readUReg i).any showsLoop && condSome s (condOf i))) (hr : readUReg i = some u)
    (hu : showsLoop u = true) (ht : condSome s (condOf i) = true) : readsLoop s i = true := by
  rw [hi, hr, ht]
  simpa using hu

/-- A transfer from a register that shows the loop, made on some element into a register with a complement, or on all.
-/
theorem readsLoop_of_transfer {s : State} {c : Cond} {cc : Compute} {dst u : UReg} (hu : showsLoop u = true)
    (ht : (if hasComplement dst then condSome s c else condTaken s c) = true) :
    readsLoop s (.uregToUreg c cc dst u) = true := by
  show (showsLoop u && _) = true
  rw [hu, ht]
  rfl

theorem nop_looksAtNothing (s : State) : looksAtLoop s .nop = false := rfl

theorem condDeps_always : condDeps .always = 0#32 := by decide

theorem computeDeps_nop : computeDeps .nop = 0#32 := by
  simp [computeDeps, maskIf]

theorem modeDeps_nop (s : State) : modeDeps s .nop = 0#32 := by
  show maskIf true (condDeps .always) ||| computeDeps .nop ||| 0#32 = 0#32
  rw [condDeps_always, computeDeps_nop]
  rfl

theorem modeDeps_ifCompute_nop (s : State) (c : Cond) : modeDeps s (.ifCompute c .nop) = 0#32 := by
  show maskIf false (condDeps c) ||| computeDeps .nop ||| 0#32 = 0#32
  rw [computeDeps_nop]
  simp [maskIf]

/-- NOP is refused nowhere but in a slot where a loop ends. -/
theorem guard_nop {s : State} (h : s.dbr ≠ none → ∀ e ∈ s.loops, e.endAddr ≠ s.pc) : guard s .nop = none := by
  refine guard_eq_none.mpr ⟨?_, ?_, ?_⟩
  · by_cases hd : s.dbr = none
    · exact slotForbidden_of_none hd _
    · have hl : s.loops.any (fun e => decide (e.endAddr = s.pc)) = false := by simpa using h hd
      unfold slotForbidden
      rw [hl]
      exact Bool.and_false _
  · rw [endForbidden, nop_looksAtNothing, Bool.and_false]
  · rw [modeDeps_nop, BitVec.zero_and]

/-- A move that post-modifies an index with a buffer set up reads CBUFEN. -/
theorem moveDeps_post {s : State} {g : Dag} {k : Fin 8} (h : s.l[g.reg k] ≠ 0#32) (cond : Cond) (c : Compute)
    (store long : Bool) (m : Fin 8) (u : UReg) :
    (moveDeps s (.uregMove cond c g true k m store long u)).getLsbD 24 = true :=
  getLsbD_or_right (getLsbD_maskIf_of rfl (postDeps_bit h)) _

theorem moveDeps_postImm {s : State} {g : Dag} {k : Fin 8} (h : s.l[g.reg k] ≠ 0#32) (cond : Cond) (c : Compute)
    (data : BitVec 6) (store : Bool) (r : RegNum) :
    (moveDeps s (.dregMoveImm cond c g true k data store r)).getLsbD 24 = true :=
  getLsbD_or_right (getLsbD_maskIf_of rfl (postDeps_bit h)) _

/-- Settles O28: each rule of the guard, and the bits each instruction depends on. -/
theorem guardForbids : Obligations.GuardForbids := by
  intro s i near changed ordered ofElement
  have hnear : (∃ e ∈ s.loops, near e) ↔ nearCounterEnd s = true := nearCounterEnd_eq_true.symm
  refine ⟨fun hd hg => ?slot, fun hd he u hu => ?loopEnd, fun e before f after t hs he ht hl hne hn => ?moved,
    fun hd hn => ?mode, fun _ hl => guard_nop fun _ => hl⟩
  case slot =>
    obtain ⟨hs, -, -⟩ := guard_eq_none.mp hg
    obtain ⟨-, -, -, hends⟩ := slotForbidden_eq_false hd hs
    exact ⟨hends, fun t ht => exec_in_slot hd hs ht⟩
  case loopEnd =>
    have hn := hnear.mp he
    have hshow : showsLoop u = true := by
      simp only [List.mem_cons, List.not_mem_nil, or_false] at hu
      obtain rfl | rfl := hu <;> rfl
    have writes {j : Instr} (hw : writtenUReg j = some u) (ht : condTaken s (condOf j) = true) :
        guard s j = some .loopEnd := guard_of_loopWrite hd hn hw hshow ht
    have reads {j : Instr} (hm : readsLoop s j = ((readUReg j).any showsLoop && condSome s (condOf j))) (hr : readUReg
        j = some u)
        (ht : condSome s (condOf j) = true) : guard s j = some .loopEnd :=
      guard_of_loopRead hd hn (readsLoop_of_read hm hr hshow ht)
    refine ⟨fun hc => guard_of_looks hd hn (looksAtLoop_of_cond hc),
      fun g long a => ⟨writes rfl (condTaken_always s), reads rfl rfl condSome_always⟩,
      fun g k long a => ⟨writes rfl (condTaken_always s), reads rfl rfl condSome_always⟩,
      fun data => writes rfl (condTaken_always s), fun rel => reads rfl rfl condSome_always,
      fun cond c p hp => ⟨fun hall => ?taken, fun hsome v hv => ?some⟩⟩
    case taken =>
      have htaken : condTaken s cond = true := (condTaken_of_ok hp).trans hall
      refine ⟨fun g post k m long store => ?_, fun v => ⟨writes rfl htaken, ?_⟩⟩
      · cases store
        · exact writes rfl htaken
        · exact reads rfl rfl (condSome_of_taken htaken)
      · refine guard_of_loopRead hd hn (readsLoop_of_transfer hshow ?_)
        split
        · exact condSome_of_taken htaken
        · exact htaken
    case some =>
      refine guard_of_loopRead hd hn (readsLoop_of_transfer hshow ?_)
      rw [if_pos hv, condSome_of_ok hp, hsome]
  case moved =>
    have hm : endMovedHere s t = true :=
      (endMovedHere_eq_true s t).mpr ⟨e, before, f, after, hs, ht, hl.symm, hne.symm, hn.1, decide_eq_true hn.2⟩
    unfold finish
    rw [if_pos hm]
  case mode =>
    have hn : nearCounterEnd s = false := Bool.eq_false_iff.mpr fun h => by
      obtain ⟨e, he, hne⟩ := hnear.mpr h
      exact hn e he hne
    have move {j : Instr} {k : Nat} (hc : changed k) (h : (moveDeps s j).getLsbD k = true) :
        guard s j = some .modeJustChanged := guard_of_move hd hn hc h
    refine ⟨fun rn rx ry rm rs mi ai mop sub => ⟨fun h => (alusat_computes rn rx ry rm rs mi ai mop sub).stops hd hn h,
        fun h => (trunc_computes rn rx ry rm mi ai mop sub).stops hd hn h, fun h => ?round, fun h op => ?mulRound⟩,
      fun hi => ?conds, fun h => ?peyen, fun h cond c dm pm sh g k data store r rel j m long u a => ?cbufen,
      fun cond c dm pm sh post data r rel j m long a => ?bdcst, fun h => guard_of_unchanged hd hn h,
      guard_nop fun h => absurd hd h, fun cond => ?nop⟩
    case round =>
      rcases h with h | h
      · exact (round_computes rn rx ry rm rs mi ai (.inl rfl)).stops hd hn h
      · exact (round_computes rn rx ry rm rs mi ai (.inr rfl)).stops hd hn h
    case mulRound =>
      rcases h with h | h
      · exact (mulAluFlt_round op rm rn mi ai (.inl rfl)).stops hd hn h _ List.mem_cons_self
      · exact (mulAluFlt_round op rm rn mi ai (.inr rfl)).stops hd hn h _ List.mem_cons_self
    case conds =>
      have hnot := doesNothing_eq_false hi
      exact ⟨fun h ho => guard_of_cond hd hn h hnot (condDeps_ordered ho),
        fun h ho => guard_of_cond hd hn h hnot (condDeps_element ho)⟩
    case peyen =>
      refine ⟨fun hc => guard_of_modeDeps hd hn (modeDeps_of_compute hc (getLsbD_or_left peyenBit_bit _)) h, ?dregs,
        fun u hu cond c g post k m store long a v => ?uregs, fun r hr a => ?bits,
        fun r a => ⟨move h peyenBit_bit, move h peyenBit_bit⟩,
        fun g k m a => move h (getLsbD_or_left peyenBit_bit _), fun t => ⟨move h peyenBit_bit, move h peyenBit_bit⟩,
        move h peyenBit_bit⟩
      case dregs =>
        intro cond c dm pm sh g post k data store r mv rel j m
        exact ⟨move h (getLsbD_or_left (dregMoveDeps_peyen s _ _) _),
          move h (getLsbD_or_left (getLsbD_or_left peyenBit_bit _) _), move h (dregMoveDeps_peyen s _ _),
          move h peyenBit_bit, move h (dregMoveDeps_peyen s _ _), move h (dregMoveDeps_peyen s _ _)⟩
      case uregs =>
        have hone : (maskIf (hasComplement u) peyenBit).getLsbD 21 = true := getLsbD_maskIf_of hu peyenBit_bit
        exact ⟨move h (getLsbD_or_left (uregMoveDeps_peyen hu _ _) _), move h hone, move h hone, move h hone,
          move h (uregMoveDeps_peyen hu _ _), move h (uregMoveDeps_peyen hu _ _), move h hone⟩
      case bits =>
        have hone : (maskIf (hasComplement (.sys r)) peyenBit).getLsbD 21 = true := getLsbD_maskIf_of hr peyenBit_bit
        exact ⟨move h hone, move h hone, move h hone⟩
    case cbufen =>
      refine ⟨fun hk => ⟨move h (moveDeps_post hk ..), move h (moveDeps_postImm hk ..),
          move h (dregMoveDeps_post hk store), move h (getLsbD_or_right (postDeps_bit hk) _)⟩,
        fun hk => ⟨move h (getLsbD_or_left (dregMoveDeps_post hk _) _), move h (dregMoveDeps_post hk _),
          move h (dregMoveDeps_post hk _)⟩,
        fun hk => move h (getLsbD_or_right (dregMoveDeps_post hk _) _)⟩
    case bdcst =>
      refine ⟨fun ⟨h, hi, hst⟩ => ?dm, fun ⟨h, hi, hst⟩ => ?pm, fun g h => ⟨?imm, fun u hu => ⟨?ureg, ?indexed⟩⟩⟩
      case dm =>
        have hload : (dregMoveDeps s (Dag.dm.reg dm.i) dm.store).getLsbD 23 = true := by
          rw [hi, hst]
          exact dregMoveDeps_load s .dm
        exact ⟨move h (getLsbD_or_left hload _), move h hload, move h hload, move h hload⟩
      case pm =>
        have hload : (dregMoveDeps s (Dag.pm.reg pm.i) pm.store).getLsbD 22 = true := by
          rw [hi, hst]
          exact dregMoveDeps_load s .pm
        exact ⟨move h (getLsbD_or_right hload _), move h hload⟩
      case imm => exact move h (getLsbD_or_left (getLsbD_or_right (getLsbD_maskIf_of rfl (loadDeps_bit g)) _) _)
      case ureg => exact move h (getLsbD_or_left (uregMoveDeps_load hu g) _)
      case indexed => exact move h (uregMoveDeps_load hu g)
    case nop =>
      refine guard_eq_none.mpr ⟨slotForbidden_of_none hd _, by rw [endForbidden, hn, Bool.false_and], ?_⟩
      rw [modeDeps_ifCompute_nop, BitVec.zero_and]

end Sys2Proof.Machine
end

section
/-!
A delayed branch and its two slots (41_program_flow.md R260, R261, R265), a step at a time: the step that begins it, the
step of a slot, and the step of the last slot, which transfers. -/

-- One proof at a time: each thread that elaborates beside another reserves a gigabyte of the check's memory.
set_option Elab.async false

namespace Sys2Proof.Machine

/-! ### The sequencer around a delayed branch -/

theorem sequence_begin {s : State} {a : ProgAddr} {la : Bool} (h : s.request = some ⟨a, true, la⟩) :
    Machine.sequence s = .ok (advance { s with request := none, dbr := some ⟨a, dbSlots, la⟩ }) := by
  unfold Machine.sequence
  rw [h]
  rfl

theorem sequence_slot {s : State} {a : ProgAddr} {la : Bool} (hr : s.request = none) (hd : s.dbr = some ⟨a, 2, la⟩) :
    Machine.sequence s = .ok (advance { s with dbr := some ⟨a, 1, la⟩ }) := by
  unfold Machine.sequence
  rw [hr, hd]
  rfl

theorem sequence_last {s : State} {a : ProgAddr} {la : Bool} (hr : s.request = none) (hd : s.dbr = some ⟨a, 1, la⟩) :
    Machine.sequence s = transfer s ⟨a, 1, la⟩ := by
  unfold Machine.sequence
  rw [hr, hd]
  rfl

/-- Between a delayed branch and its target nothing is taken. -/
theorem betweenInstructions_slot {s : State} (h : s.dbr ≠ none) :
    ∃ c ir hi : Word, betweenInstructions s = .ok { s with tcount := c, irptl := ir, hostIrq := hi } := by
  obtain ⟨c, ir, hi, he⟩ := latchRequests_tickTimer_eq s
  refine ⟨c, ir, hi, ?_⟩
  unfold betweenInstructions sampleInterrupts
  rw [he, if_pos (Option.isSome_iff_ne_none.mpr h)]

/-- The rest of a step that ends between a delayed branch and its target. -/
theorem finish_slot {s t v : State} (hl : t.loops = s.loops) (hs : Machine.sequence t = .ok v) (hd : v.dbr ≠ none) :
    ∃ (c ir hi m : Word), finish s t = .ok { tick v with
      tcount := c, irptl := ir, hostIrq := hi, history := remember t.view s.history, mode1Changed := m } := by
  obtain ⟨c, ir, hi, hb⟩ := betweenInstructions_slot (s := tick v) hd
  exact ⟨c, ir, hi, _, (finish_eq_ok ..).mpr ⟨endMovedHere_of_loops_eq hl, v, _, hs, hb, rfl⟩⟩

/-! ### The states between a delayed branch and its target -/

/-- The state `u` waits at `a` for the transfer of `d`, with the PC stack `stack`; everything that fetching and the
sequencer read is as at `s`. -/
structure Waits (s u : State) (a : ProgAddr) (d : DelayedBranch) (stack : List PcEntry) : Prop where
  idle : u.idle = false
  request : u.request = none
  dbr : u.dbr = some d
  pc : u.pc = a
  pcStack : u.pcStack = stack
  loops : u.loops = s.loops
  params : u.params = s.params
  mem : u.mem = s.mem
  stale : u.stale = s.stale

/-- At `a` stands an instruction that can be fetched. -/
def Holds (s : State) (a : ProgAddr) (i : Instr) : Prop :=
  s.region (a.setWidth 32) = .word48 ∧ a.setWidth 32 ∉ s.stale ∧
    to48 (s.mem.readCell (a.setWidth 32) 6) = encode i

theorem fetch_of_holds {s : State} {i : Instr} (h : Holds s s.pc i) (hi : WellFormed i = true) : fetch s = .ok i := by
  obtain ⟨hr, hs, hw⟩ := h
  exact fetch_of_decode hs hr (by unfold fetchAddr; rw [hw, decodeEncode i hi])

section
variable {s u : State} {a t : ProgAddr} {d : DelayedBranch} {la : Bool} {stack : List PcEntry}

theorem Waits.fetchAllowed (h : Waits s u a d stack) (hi : Holds s a .nop) (hl : ∀ e ∈ s.loops, e.endAddr ≠ a) :
    fetchAllowed u = .ok .nop := by
  obtain ⟨hr, hs, hw⟩ := hi
  refine fetchAllowed_of_none (fetch_of_holds ⟨?_, ?_, ?_⟩ rfl) (guard_nop fun _ e he => ?_)
  · rw [h.pc]
    unfold State.region at hr ⊢
    rwa [h.params]
  · rwa [h.pc, h.stale]
  · rwa [h.pc, h.mem]
  · rw [h.loops] at he
    rw [h.pc]
    exact hl e he

/-- A step that begins a delayed branch. -/
theorem step_begin {i : Instr} (hidle : s.idle = false) (hf : Machine.fetchAllowed s = .ok i)
    (he : exec i s = .next { s with pcStack := stack, request := some ⟨t, true, la⟩ }) :
    ∃ u, step s = .next u ∧ Waits s u (s.pc + 1#24) ⟨t, 2, la⟩ stack := by
  obtain ⟨c, ir, hi, m, hfin⟩ := finish_slot (s := s) (t := { s with pcStack := stack, request := some ⟨t, true, la⟩ })
    rfl (sequence_begin rfl) nofun
  exact ⟨_, (step_eq_next ..).mpr (.inr ⟨hidle, i, _, hf, he, hfin⟩), hidle, rfl, rfl, rfl, rfl, rfl, rfl, rfl, rfl⟩

/-- The step of a slot before the last. -/
theorem step_slot (h : Waits s u a ⟨t, 2, la⟩ stack) (hf : Machine.fetchAllowed u = .ok .nop) :
    ∃ v, step u = .next v ∧ Waits s v (a + 1#24) ⟨t, 1, la⟩ stack := by
  obtain ⟨c, ir, hi, m, hfin⟩ := finish_slot (s := u) (t := u) rfl (sequence_slot h.request h.dbr) nofun
  refine ⟨_, (step_eq_next ..).mpr (.inr ⟨h.idle, .nop, u, hf, exec_nop u, hfin⟩), h.idle, h.request, rfl, ?_,
    h.pcStack, h.loops, h.params, h.mem, h.stale⟩
  exact congrArg (· + 1#24) h.pc

/-- The step of the last slot: the pops of the transfer, the target, and an interrupt there at most. -/
theorem step_last {w : State} (h : Waits s u a ⟨t, 1, la⟩ stack) (hf : Machine.fetchAllowed u = .ok .nop)
    (hw : step u = .next w) :
    ∃ x, whenSet la abortLoop u = .ok x ∧ w.dbr = none ∧ w.loops = x.loops ∧
      ((w.pc = t ∧ w.pcStack = x.pcStack) ∨ ∃ k, w.pc = vectorOf w k ∧ w.pcStack = ⟨t, .call⟩ :: x.pcStack) := by
  obtain ⟨hi, -⟩ | ⟨-, i, v, hfi, he, hfin⟩ := (step_eq_next ..).mp hw
  · exact absurd (h.idle.symm.trans hi) Bool.false_ne_true
  obtain rfl : Instr.nop = i := Except.ok.inj (hf.symm.trans hfi)
  obtain rfl : u = v := Host.Outcome.next.inj ((exec_nop u).symm.trans he)
  obtain ⟨-, y, z, hs, hb, rfl⟩ := (finish_eq_ok ..).mp hfin
  rw [sequence_last h.request h.dbr, transfer_eq_ok] at hs
  obtain ⟨x, hx, rfl⟩ := hs
  refine ⟨x, hx, ?_⟩
  unfold betweenInstructions at hb
  obtain ⟨c, ir, hq, hl⟩ := latchRequests_tickTimer_eq (tick (goTo { x with dbr := none } t))
  rw [hl] at hb
  obtain ⟨n, rfl⟩ | ⟨k, -, -, ht⟩ := sampleInterrupts_eq_ok hb
  · exact ⟨rfl, rfl, .inl ⟨rfl, rfl⟩⟩
  · obtain ⟨-, -, rfl⟩ := (takeInterrupt_eq_ok ..).mp ht
    exact ⟨rfl, rfl, .inr ⟨k, rfl, rfl⟩⟩

end

/-- The guard lets pass an unconditional branch after no change of MODE1, outside of slots. -/
theorem guard_branch {s : State} {i : Instr} (hd : s.dbr = none) (hm : s.mode1Changed = 0#32)
    (hl : looksAtLoop s i = false) : guard s i = none :=
  guard_eq_none.mpr ⟨slotForbidden_of_none hd i, by rw [endForbidden, hl, Bool.and_false], by rw [hm, BitVec.and_zero]⟩

/-- A delayed branch at `s`, and NOPs in its two slots, a step at a time. -/
theorem delayed_goes {s : State} {t : ProgAddr} {la : Bool} {stack : List PcEntry} {i : Instr}
    (hidle : s.idle = false) (hf : fetchAllowed s = .ok i)
    (he : exec i s = .next { s with pcStack := stack, request := some ⟨t, true, la⟩ })
    (hl : ∀ e ∈ s.loops, e.endAddr ≠ s.pc + 1#24 ∧ e.endAddr ≠ s.pc + 2#24)
    (h1 : Holds s (s.pc + 1#24) .nop) (h2 : Holds s (s.pc + 2#24) .nop) :
    ∃ u v, step s = .next u ∧ u.pc = s.pc + 1#24 ∧ u.pcStack = stack ∧ u.loops = s.loops ∧
      step u = .next v ∧ v.pc = s.pc + 2#24 ∧ v.pcStack = stack ∧ v.loops = s.loops ∧
      ∀ w, step v = .next w → ∃ x, whenSet la abortLoop v = .ok x ∧ w.dbr = none ∧ w.loops = x.loops ∧
        ((w.pc = t ∧ w.pcStack = x.pcStack) ∨ ∃ k, w.pc = vectorOf w k ∧ w.pcStack = ⟨t, .call⟩ :: x.pcStack) := by
  obtain ⟨u, hu, wu⟩ := step_begin hidle hf he
  obtain ⟨v, hv, wv⟩ := step_slot wu (wu.fetchAllowed h1 fun e he => (hl e he).1)
  have hpc : s.pc + 1#24 + 1#24 = s.pc + 2#24 := by rw [BitVec.add_assoc]; rfl
  rw [hpc] at wv
  exact ⟨u, v, hu, wu.pc, wu.pcStack, wu.loops, hv, wv.pc, wv.pcStack, wv.loops,
    fun w hw => step_last wv (wv.fetchAllowed h2 fun e he => (hl e he).2) hw⟩

theorem takes_allElements (s : State) : takes s (allElements s) = true := by
  unfold takes allElements
  cases s.simd <;> rfl

theorem exec_jumpAbs_delayed (s : State) (t : ProgAddr) (la : Bool) :
    exec (.jumpAbs .always ⟨true, la, false⟩ t) s =
      .next { s with pcStack := s.pcStack, request := some ⟨t, true, la⟩ } := by
  rw [exec_jumpAbs (evalCond_always s), if_pos (takes_allElements s), jumpTo_ok fun _ h => absurd h.symm
      Bool.false_ne_true]
  cases la <;> rfl

theorem exec_rts_delayed {s : State} {t : ProgAddr} {src : PcSource} {rest : List PcEntry}
    (h : s.pcStack = ⟨t, src⟩ :: rest) (lr : Bool) :
    exec (.rts .always true false lr .nop) s =
      .next { s with pcStack := rest, request := some ⟨t, true, false⟩ } := by
  rw [exec_rts (evalCond_always s) (by decide), if_pos (takes_allElements s), computed_nop, returnTo_cons h,
    Bool.not_true, Bool.and_false, Bool.false_and, if_neg Bool.false_ne_true]
  rfl

/-- Settles O25: the branch begins, each slot is a step, and the last of them transfers. -/
theorem delayedBranchTakesTwoSlots : Obligations.DelayedBranchTakesTwoSlots := by
  intro s t hidle hd hr hm hl hreg h1 h2 goes
  have hold0 {i : Instr} (h : to48 (s.mem.readCell (s.pc.setWidth 32) 6) = encode i) : Holds s s.pc i := by
    obtain ⟨hw, hs⟩ := hreg 0 (by omega)
    rw [BitVec.add_zero] at hw hs
    exact ⟨hw, hs, h⟩
  have hold1 : Holds s (s.pc + 1#24) .nop := ⟨(hreg 1 (by omega)).1, (hreg 1 (by omega)).2, h1⟩
  have hold2 : Holds s (s.pc + 2#24) .nop := ⟨(hreg 2 (by omega)).1, (hreg 2 (by omega)).2, h2⟩
  have run {i : Instr} {stack : List PcEntry} {la : Bool}
      (h : to48 (s.mem.readCell (s.pc.setWidth 32) 6) = encode i) (hi : WellFormed i = true)
      (hlook : looksAtLoop s i = false)
      (he : exec i s = .next { s with pcStack := stack, request := some ⟨t, true, la⟩ }) :=
    delayed_goes hidle (fetchAllowed_of_none (fetch_of_holds (hold0 h) hi) (guard_branch hd hm hlook)) he hl hold1 hold2
  refine ⟨fun h => ?jump, fun e more a rest hloops hstack h => ?abort, fun src rest lr hstack h => ?ret⟩
  case jump =>
    obtain ⟨u, v, hu, hup, hus, hul, hv, hvp, hvs, hvl, hw⟩ := run h rfl rfl (exec_jumpAbs_delayed s t false)
    refine ⟨u, v, hu, hup, hus, hul, hv, hvp, hvs, hvl, fun w hstep => ?_⟩
    obtain ⟨x, hx, hwd, hwl, hwpc⟩ := hw w hstep
    cases hx
    rw [← hvs, ← hvl]
    exact ⟨hwd, hwl, hwpc⟩
  case abort =>
    obtain ⟨u, v, hu, hup, hus, hul, hv, hvp, hvs, hvl, hw⟩ := run h rfl rfl (exec_jumpAbs_delayed s t true)
    refine ⟨u, v, hu, hup, hus, hul, hv, hvp, hvs, hvl, fun w hstep => ?_⟩
    obtain ⟨x, hx, hwd, hwl, hwpc⟩ := hw w hstep
    obtain ⟨f, ls, p, ps, hfl, hps, rfl⟩ := (abortLoop_eq_ok v x).mp hx
    obtain ⟨-, rfl⟩ := List.cons.inj ((hvl.symm.trans hfl).symm.trans hloops)
    obtain ⟨-, rfl⟩ := List.cons.inj ((hvs.symm.trans hps).symm.trans hstack)
    exact ⟨hwd, hwl, hwpc⟩
  case ret =>
    obtain ⟨u, v, hu, hup, hus, hul, hv, hvp, hvs, hvl, hw⟩ := run h rfl rfl (exec_rts_delayed hstack lr)
    refine ⟨u, v, hu, hup, hus, hul, hv, hvp, hvs, hvl, fun w hstep => ?_⟩
    obtain ⟨x, hx, hwd, hwl, hwpc⟩ := hw w hstep
    cases hx
    rw [← hvs, ← hvl]
    exact ⟨hwd, hwl, hwpc⟩

end Sys2Proof.Machine
end
